-- ==== Sys2Proof/Word.lean ====
section
/-!
DEFINITION. The word types of the gridiron field-arithmetic core (FAC): a limb and a host word are 64 bits
(00_scope.md R3, 20_memory.md R51), a byte lane is 8 bits (20_memory.md R61).
-/

namespace Sys2Proof

/-- A 64-bit host word: what one window access moves (20_memory.md R51). -/
abbrev Word := BitVec 64

/-- A limb: "one 64-bit unsigned machine word" (00_scope.md R3). -/
abbrev Limb := BitVec 64

/-- One byte lane of a 64-bit access (20_memory.md R61). -/
abbrev Byte := BitVec 8

/-- The limb base b = 2^64 (00_scope.md R3). -/
abbrev limbBase : Nat := 2 ^ 64

end Sys2Proof
end

