-- ==== Sys2Proof/Config.lean ====
section
/-!
DEFINITION. The parameters of an instance (00_scope.md R2 to R10). The FAC exists in two variants: FAC256, all of whose
parameters the spec gives, and FAC480, whose prime and Barrett bound are OPEN (92_eei_decisions.md D43, D26). The open
parameters are plain data of the instance, so a claim about every state is a claim for every value of them
(notes/assumptions/2.md).
-/

namespace Sys2Proof.Config

/-- P of FAC256, the decimal of 00_scope.md R5. -/
def p256 : Nat := 65000549695646603732796438742359905742825358107623003571877145026864184071783

/-- The number of element registers, NREG (00_scope.md R10). -/
abbrev nreg : Nat := 8

/-- The two instance variants (00_scope.md R2). `fac480` carries the OPEN parameters P480 and BARRETT_BOUND_480 (R6). -/
inductive Variant where
  | fac256
  | fac480 (p480 bound480 : Nat)
  deriving DecidableEq, Repr

/-- N, the limbs of an element (00_scope.md R5, R6). -/
def Variant.n : Variant → Nat
  | .fac256 => 4
  | .fac480 _ _ => 8

/-- P, the modulus (00_scope.md R5, R6). -/
def Variant.p : Variant → Nat
  | .fac256 => p256
  | .fac480 p480 _ => p480

/-- BARRETT_BOUND (00_scope.md R5, R6, R9). -/
def Variant.barrettBound : Variant → Nat
  | .fac256 => 2 ^ 512
  | .fac480 _ bound480 => bound480

/-- FIELD, the code of CONFIG[31:24] (00_scope.md R5, R6). -/
def Variant.field : Variant → Nat
  | .fac256 => 0
  | .fac480 _ _ => 1

/-- PBITS, the bit length of P (00_scope.md R5, R6). -/
def Variant.pbits : Variant → Nat
  | .fac256 => 256
  | .fac480 _ _ => 480

/-- BYTEW, the external byte width, ceil(PBITS / 8) (00_scope.md R8). -/
def Variant.bytew (c : Variant) : Nat := (c.pbits + 7) / 8

/-- M = 2^(64*N): an element register holds a value below it (40_unsigned.md, before R100). -/
def Variant.radix (c : Variant) : Nat := 2 ^ (64 * c.n)

/-- 2^(128*N): W holds a value below it (10_state.md R24). -/
def Variant.wideRadix (c : Variant) : Nat := 2 ^ (128 * c.n)

/-- MU = floor(2^(2*64*N) / P) (00_scope.md R7). -/
def Variant.mu (c : Variant) : Nat := 2 ^ (2 * 64 * c.n) / c.p

/-- The size constraints on the OPEN parameters (00_scope.md R6, R9): 2^479 <= P480 < 2^480 and
(P480-1)^2 < BARRETT_BOUND_480 <= 2^1024. FAC256 has no open parameter. -/
def Variant.sized : Variant → Bool
  | .fac256 => true
  | .fac480 p480 bound480 =>
    decide (2 ^ 479 ≤ p480) && decide (p480 < 2 ^ 480)
      && decide ((p480 - 1) ^ 2 < bound480) && decide (bound480 ≤ 2 ^ 1024)

/-- All the constraints of 00_scope.md R5 and R6 on a variant: the sizes, and that P is prime. -/
def Variant.Valid (c : Variant) : Prop := c.sized = true ∧ Nat.Prime c.p

/-- One instance: its variant, and where the platform put its window (20_memory.md R50, the OPEN parameter FAC_BASE). -/
structure Inst where
  variant : Variant
  facBase : Nat
  deriving DecidableEq, Repr

/-- The constraint of 20_memory.md R50 on FAC_BASE. -/
def Inst.aligned (c : Inst) : Bool := decide (c.facBase % 4096 = 0)

/-- The instance `State.reset` is stated for: FAC256 with its window at 0. DESIGN CHOICE (notes/assumptions/1.md, 3.md). -/
def Inst.default : Inst := { variant := .fac256, facBase := 0 }

end Sys2Proof.Config
end

