-- ==== Sys2Proof/Syntax.lean ====
section
/-!
DEFINITION. The instruction type: one constructor per row of spec/opcode_table.json (30_encoding.md R86).
-/

namespace Sys2Proof

/-- An element register number, 0 to 7 (00_scope.md R10). The 4-bit field values 8 to 15 name no register
(30_encoding.md R88): the decoder refuses them by name, so no instruction holds one. -/
abbrev Reg := Fin 8

/-- The 20 commands (30_encoding.md R86), with the operands of their shapes (R82). `hint` is NORM's immediate, 0 to 4095
(R83), which WellFormed.lean checks. -/
inductive Instr where
  | add (rd rs1 rs2 : Reg)
  | sub (rd rs1 rs2 : Reg)
  | mulw (rs1 rs2 : Reg)
  | cmp (rs1 rs2 : Reg)
  | shl1 (rd rs1 : Reg)
  | shr1 (rd rs1 : Reg)
  | sadd (rd rs1 rs2 : Reg)
  | ssub (rd rs1 rs2 : Reg)
  | smulw (rs1 rs2 : Reg)
  | sfold (rd rs1 : Reg)
  | sfoldw (rd : Reg)
  | reduce (rd : Reg)
  | norm (rd rs1 : Reg) (hint : Nat)
  | fadd (rd rs1 rs2 : Reg)
  | fsub (rd rs1 rs2 : Reg)
  | fneg (rd rs1 : Reg)
  | fmul (rd rs1 rs2 : Reg)
  | finv (rd rs1 : Reg)
  | fdiv (rd rs1 rs2 : Reg)
  | fpow (rd rs1 rs2 : Reg)
  deriving DecidableEq, Repr

end Sys2Proof
end

