-- ==== Sys2Proof/WellFormed.lean ====
section
/-!
DEFINITION. Which instructions have an encoding: every one, but for a NORM whose hint does not fit its 12-bit field
(30_encoding.md R81, R83). Register numbers need no check: their type holds 0 to 7 only.
-/

namespace Sys2Proof

/-- The instruction fits the command word (30_encoding.md R81, R83). -/
def Instr.wellFormed : Instr → Bool
  | .add _ _ _ => true
  | .sub _ _ _ => true
  | .mulw _ _ => true
  | .cmp _ _ => true
  | .shl1 _ _ => true
  | .shr1 _ _ => true
  | .sadd _ _ _ => true
  | .ssub _ _ _ => true
  | .smulw _ _ => true
  | .sfold _ _ => true
  | .sfoldw _ => true
  | .reduce _ => true
  | .norm _ _ hint => decide (hint < 4096)
  | .fadd _ _ _ => true
  | .fsub _ _ _ => true
  | .fneg _ _ => true
  | .fmul _ _ _ => true
  | .finv _ _ => true
  | .fdiv _ _ _ => true
  | .fpow _ _ _ => true

end Sys2Proof
end

