-- ==== Sys2Proof/Decode.lean ====
section
/-!
DEFINITION. Decoding and encoding (30_encoding.md). `decode` is total on every 64-bit value written to CMD and refuses by
name (R89); `encode` builds the word of an instruction from the same tables (R87). A value reaches the decoder as a 64-bit
word; `decodeLanes` takes the bytes of the bus in the lane order of 20_memory.md R61.
-/

namespace Sys2Proof

/-- `x[hi:lo]` = floor(x / 2^lo) mod 2^(hi-lo+1) (00_scope.md R11). -/
def slice (x hi lo : Nat) : Nat := x / 2 ^ lo % 2 ^ (hi - lo + 1)

/-- The operand shapes of 30_encoding.md R82. -/
inductive Shape where
  | r3 | r2 | c2 | w1 | rh
  deriving DecidableEq, Repr

/-- The shape uses RD (30_encoding.md R82). -/
def Shape.usesRd : Shape → Bool
  | .r3 => true
  | .r2 => true
  | .c2 => false
  | .w1 => true
  | .rh => true

/-- The shape uses RS1 (30_encoding.md R82). -/
def Shape.usesRs1 : Shape → Bool
  | .r3 => true
  | .r2 => true
  | .c2 => true
  | .w1 => false
  | .rh => true

/-- The shape uses RS2 (30_encoding.md R82). -/
def Shape.usesRs2 : Shape → Bool
  | .r3 => true
  | .r2 => false
  | .c2 => true
  | .w1 => false
  | .rh => false

/-- The shape uses IMM (30_encoding.md R82). -/
def Shape.usesImm : Shape → Bool
  | .r3 => false
  | .r2 => false
  | .c2 => false
  | .w1 => false
  | .rh => true

/-- The mask of a shape: the bits of the command word that select the command (30_encoding.md R87). -/
def Shape.mask : Shape → BitVec 32
  | .r3 => 0xFFF888FF
  | .r2 => 0xFFFF88FF
  | .c2 => 0xFFF88FFF
  | .w1 => 0xFFFFF8FF
  | .rh => 0x000F88FF

/-- The operations of the opcode map (30_encoding.md R86). -/
inductive Op where
  | add | sub | mulw | cmp | shl1 | shr1
  | sadd | ssub | smulw | sfold | sfoldw
  | reduce | norm
  | fadd | fsub | fneg | fmul | finv | fdiv | fpow
  deriving DecidableEq, Repr

/-- OP, the opcode (30_encoding.md R86). -/
def Op.code : Op → Nat
  | .add => 0x10
  | .sub => 0x11
  | .mulw => 0x12
  | .cmp => 0x13
  | .shl1 => 0x14
  | .shr1 => 0x15
  | .sadd => 0x20
  | .ssub => 0x21
  | .smulw => 0x22
  | .sfold => 0x23
  | .sfoldw => 0x24
  | .reduce => 0x30
  | .norm => 0x31
  | .fadd => 0x40
  | .fsub => 0x41
  | .fneg => 0x42
  | .fmul => 0x43
  | .finv => 0x44
  | .fdiv => 0x45
  | .fpow => 0x46

/-- The operation an OP value names; every value not listed is illegal (30_encoding.md R86). -/
def Op.ofCode : Nat → Option Op
  | 0x10 => some .add
  | 0x11 => some .sub
  | 0x12 => some .mulw
  | 0x13 => some .cmp
  | 0x14 => some .shl1
  | 0x15 => some .shr1
  | 0x20 => some .sadd
  | 0x21 => some .ssub
  | 0x22 => some .smulw
  | 0x23 => some .sfold
  | 0x24 => some .sfoldw
  | 0x30 => some .reduce
  | 0x31 => some .norm
  | 0x40 => some .fadd
  | 0x41 => some .fsub
  | 0x42 => some .fneg
  | 0x43 => some .fmul
  | 0x44 => some .finv
  | 0x45 => some .fdiv
  | 0x46 => some .fpow
  | _ => none

/-- The shape of each operation (30_encoding.md R86). -/
def Op.shape : Op → Shape
  | .add => .r3
  | .sub => .r3
  | .mulw => .c2
  | .cmp => .c2
  | .shl1 => .r2
  | .shr1 => .r2
  | .sadd => .r3
  | .ssub => .r3
  | .smulw => .c2
  | .sfold => .r2
  | .sfoldw => .w1
  | .reduce => .w1
  | .norm => .rh
  | .fadd => .r3
  | .fsub => .r3
  | .fneg => .r2
  | .fmul => .r3
  | .finv => .r2
  | .fdiv => .r3
  | .fpow => .r3

/-- The instruction of an operation and its operands; an operand the shape does not use is dropped. -/
def Op.build (rd rs1 rs2 : Reg) (imm : Nat) : Op → Instr
  | .add => .add rd rs1 rs2
  | .sub => .sub rd rs1 rs2
  | .mulw => .mulw rs1 rs2
  | .cmp => .cmp rs1 rs2
  | .shl1 => .shl1 rd rs1
  | .shr1 => .shr1 rd rs1
  | .sadd => .sadd rd rs1 rs2
  | .ssub => .ssub rd rs1 rs2
  | .smulw => .smulw rs1 rs2
  | .sfold => .sfold rd rs1
  | .sfoldw => .sfoldw rd
  | .reduce => .reduce rd
  | .norm => .norm rd rs1 imm
  | .fadd => .fadd rd rs1 rs2
  | .fsub => .fsub rd rs1 rs2
  | .fneg => .fneg rd rs1
  | .fmul => .fmul rd rs1 rs2
  | .finv => .finv rd rs1
  | .fdiv => .fdiv rd rs1 rs2
  | .fpow => .fpow rd rs1 rs2

/-- The five fields of the command word (30_encoding.md R81, R83). -/
structure Fields where
  op : Nat
  rd : Nat
  rs1 : Nat
  rs2 : Nat
  imm : Nat
  deriving DecidableEq, Repr

/-- The fields of a command word (30_encoding.md R83). -/
def Fields.ofWord (w : Nat) : Fields :=
  { op := slice w 7 0, rd := slice w 11 8, rs1 := slice w 15 12, rs2 := slice w 19 16, imm := slice w 31 20 }

/-- OP | (rd << 8) | (rs1 << 12) | (rs2 << 16) | (imm << 20) (30_encoding.md R87). The fields do not overlap, so the sum is
the bitwise or. -/
def Fields.toWord (f : Fields) : Nat :=
  f.op + f.rd * 2 ^ 8 + f.rs1 * 2 ^ 12 + f.rs2 * 2 ^ 16 + f.imm * 2 ^ 20

/-- Why a value written to CMD is ILLEGAL: the four conditions of 30_encoding.md R89. -/
inductive IllegalReason where
  /-- condition 1: v[63:32] is not 0 -/
  | highBits
  /-- condition 2: v[7:0] is not an OP of R86 -/
  | opcode
  /-- condition 3: a field that the shape marks "must be 0" is not 0 -/
  | unusedField
  /-- condition 4: a used register field is 8 or more -/
  | register
  deriving DecidableEq, Repr

/-- Condition 3 of 30_encoding.md R89. -/
def Fields.unusedNonzero (sh : Shape) (f : Fields) : Bool :=
  (!sh.usesRd && f.rd != 0) || (!sh.usesRs1 && f.rs1 != 0) || (!sh.usesRs2 && f.rs2 != 0)
    || (!sh.usesImm && f.imm != 0)

/-- Condition 4 of 30_encoding.md R89. -/
def Fields.badRegister (sh : Shape) (f : Fields) : Bool :=
  (sh.usesRd && decide (8 ≤ f.rd)) || (sh.usesRs1 && decide (8 ≤ f.rs1)) || (sh.usesRs2 && decide (8 ≤ f.rs2))

/-- Decode the fields of a command word (30_encoding.md R86, R88, R89). All conditions of R89 give the same error code
(60_exceptions.md R204); the reason named is the first that holds in R89's order (notes/assumptions/15.md). -/
def Fields.decode (f : Fields) : Except IllegalReason Instr :=
  match Op.ofCode f.op with
  | none => .error .opcode
  | some o =>
    if f.unusedNonzero o.shape then .error .unusedField
    else if f.badRegister o.shape then .error .register
    else .ok (o.build (Fin.ofNat 8 f.rd) (Fin.ofNat 8 f.rs1) (Fin.ofNat 8 f.rs2) f.imm)

/-- Decode a 64-bit value written to CMD: exactly one of the 20 commands, or ILLEGAL (30_encoding.md R89, R90). -/
def decode (v : Word) : Except IllegalReason Instr :=
  if slice v.toNat 63 32 ≠ 0 then .error .highBits else (Fields.ofWord v.toNat).decode

/-- The operation of an instruction (30_encoding.md R86). -/
def Instr.op : Instr → Op
  | .add _ _ _ => .add
  | .sub _ _ _ => .sub
  | .mulw _ _ => .mulw
  | .cmp _ _ => .cmp
  | .shl1 _ _ => .shl1
  | .shr1 _ _ => .shr1
  | .sadd _ _ _ => .sadd
  | .ssub _ _ _ => .ssub
  | .smulw _ _ => .smulw
  | .sfold _ _ => .sfold
  | .sfoldw _ => .sfoldw
  | .reduce _ => .reduce
  | .norm _ _ _ => .norm
  | .fadd _ _ _ => .fadd
  | .fsub _ _ _ => .fsub
  | .fneg _ _ => .fneg
  | .fmul _ _ _ => .fmul
  | .finv _ _ => .finv
  | .fdiv _ _ _ => .fdiv
  | .fpow _ _ _ => .fpow

/-- The field values of an instruction; a field its shape does not use is 0 (30_encoding.md R82). -/
def Instr.fields (i : Instr) : Fields :=
  match i with
  | .add rd rs1 rs2 => ⟨i.op.code, rd, rs1, rs2, 0⟩
  | .sub rd rs1 rs2 => ⟨i.op.code, rd, rs1, rs2, 0⟩
  | .mulw rs1 rs2 => ⟨i.op.code, 0, rs1, rs2, 0⟩
  | .cmp rs1 rs2 => ⟨i.op.code, 0, rs1, rs2, 0⟩
  | .shl1 rd rs1 => ⟨i.op.code, rd, rs1, 0, 0⟩
  | .shr1 rd rs1 => ⟨i.op.code, rd, rs1, 0, 0⟩
  | .sadd rd rs1 rs2 => ⟨i.op.code, rd, rs1, rs2, 0⟩
  | .ssub rd rs1 rs2 => ⟨i.op.code, rd, rs1, rs2, 0⟩
  | .smulw rs1 rs2 => ⟨i.op.code, 0, rs1, rs2, 0⟩
  | .sfold rd rs1 => ⟨i.op.code, rd, rs1, 0, 0⟩
  | .sfoldw rd => ⟨i.op.code, rd, 0, 0, 0⟩
  | .reduce rd => ⟨i.op.code, rd, 0, 0, 0⟩
  | .norm rd rs1 hint => ⟨i.op.code, rd, rs1, 0, hint⟩
  | .fadd rd rs1 rs2 => ⟨i.op.code, rd, rs1, rs2, 0⟩
  | .fsub rd rs1 rs2 => ⟨i.op.code, rd, rs1, rs2, 0⟩
  | .fneg rd rs1 => ⟨i.op.code, rd, rs1, 0, 0⟩
  | .fmul rd rs1 rs2 => ⟨i.op.code, rd, rs1, rs2, 0⟩
  | .finv rd rs1 => ⟨i.op.code, rd, rs1, 0, 0⟩
  | .fdiv rd rs1 rs2 => ⟨i.op.code, rd, rs1, rs2, 0⟩
  | .fpow rd rs1 rs2 => ⟨i.op.code, rd, rs1, rs2, 0⟩

/-- The 64-bit value to write to CMD for an instruction: its word in bits 31:0, zeros above (30_encoding.md R80, R87). -/
def encode (i : Instr) : Word := BitVec.ofNat 64 i.fields.toWord

/-- The first `n` byte lanes of a value, lane 0 (bits 7:0) first (20_memory.md R61). -/
def lanesOf : Nat → Nat → List Byte
  | 0, _ => []
  | n + 1, v => BitVec.ofNat 8 v :: lanesOf n (v / 2 ^ 8)

/-- The value whose byte lanes are given, lane 0 first: byte k carries bits [8k+7:8k] (20_memory.md R61). -/
def laneValue : List Byte → Nat
  | [] => 0
  | b :: rest => b.toNat + 2 ^ 8 * laneValue rest

/-- Decode the bytes on the bus of a CMD write, lane 0 first; lanes not given are 0, lanes past the eighth do not exist
(20_memory.md R51, R61; notes/assumptions/21.md). -/
def decodeLanes (bs : List Byte) : Except IllegalReason Instr := decode (BitVec.ofNat 64 (laneValue (bs.take 8)))

/-- The host's question: the instruction the decoder reads from a word of spec/opcode_table.json, `nbits` bits of it given
and every bit above them 0. The word is laid out in the byte lanes of the bus and given to the decoder. -/
def decodeTableWord (nbits w : Nat) : Option Instr := (decodeLanes (lanesOf ((nbits + 7) / 8) w)).toOption

end Sys2Proof
end

