-- ==== Sys2Proof/Machine/State.lean ====
section
/-!
DEFINITION. The state of one FAC instance as plain data (10_state.md), the inputs the outside world gives it, the reasons a
step can stop, and the state after reset (R40).
-/

namespace Sys2Proof.Machine

open Sys2Proof.Config

/-- One limb of a data register: its value, and whether something has stored it since reset (10_state.md R41). -/
structure LimbSlot where
  limb : Limb
  written : Bool
  deriving DecidableEq, Repr

/-- A limb array with its sign bit: an element register E[i] with SGN[i] (10_state.md R22, R23), or W with WSGN (R24).
The least significant limb comes first (00_scope.md R4). -/
structure LimbReg where
  limbs : List LimbSlot
  sgn : Bool
  deriving DecidableEq, Repr

/-- FLAGS (10_state.md R25). Its reserved bits hold nothing: they read 0. -/
structure Flags where
  c : Bool
  lt : Bool
  eq : Bool
  gt : Bool
  deriving DecidableEq, Repr

/-- STATUS (10_state.md R28). Its reserved bits hold nothing: they read 0. -/
structure Status where
  busy : Bool
  done : Bool
  err : Bool
  errcode : BitVec 4
  deriving DecidableEq, Repr

/-- The engine's hidden state: idle, or running the command latched at acceptance (10_state.md R34, 20_memory.md R74). The
intermediate values of R34 are not held: nothing can observe them (93_implementation_defined.md I19). -/
inductive Engine where
  | idle
  | running (cmd : Word)
  deriving DecidableEq, Repr

/-- A host access to the window: MemRead(addr, width) or MemWrite(addr, width, v), width in bytes (20_memory.md R51). For a
write that is not 8 bytes wide the value is of no account: it gets a bus error. -/
inductive Access where
  | read (addr width : Nat)
  | write (addr width : Nat) (v : Word)
  deriving DecidableEq, Repr

/-- What happens next to an instance: its host performs an access (20_memory.md R70), the engine takes its turn and
completes the running command (70_reset_and_hazards.md R250), or the outside drives the reset input to a level (R240). -/
inductive Input where
  | access (a : Access)
  | engineTurn
  | rstLevel (level : Bool)
  deriving DecidableEq, Repr

/-- Why a host access was refused (20_memory.md R51, R53, R57, R58; 70_reset_and_hazards.md R240). -/
inductive BusErrorCause where
  /-- `rst` is asserted (70_reset_and_hazards.md R240) -/
  | inReset
  /-- not 8 bytes wide (20_memory.md R51, R63) -/
  | width
  /-- the offset is not a multiple of 8 (20_memory.md R51, R63) -/
  | misaligned
  /-- a reserved offset (20_memory.md R53) -/
  | reserved
  /-- a write to ID, CONFIG, FLAGS, a P limb or an MU limb (20_memory.md R57) -/
  | readOnly
  /-- an access not allowed while BUSY = 1 (20_memory.md R58) -/
  | busy
  deriving DecidableEq, Repr

/-- How a step can stop with a fault. -/
inductive Fault where
  /-- HOST_BUS_ERROR: raised by `hostAccess` for an access the FAC refuses (20_memory.md R59, 60_exceptions.md R216); the
  access changes no FAC state. Safe: the chip goes on, the run stops (notes/assumptions/10.md). -/
  | hostBusError (a : Access) (why : BusErrorCause)
  /-- Raised by `hostAccess` for an address outside the instance's window, where no FAC answers (20_memory.md R50). Safe:
  the access belongs to the platform, the run stops (notes/assumptions/11.md). -/
  | outsideWindow (a : Access)
  deriving DecidableEq, Repr

/-- Why a command could have no meaning. No arm of `exec` answers so: every command has its meaning. -/
inductive Refusal where
  /-- Reserved for `exec`'s arms: an instruction that has no meaning yet. Safe. -/
  | notModelled (mnemonic : String)
  deriving DecidableEq, Repr

/-- The state of one FAC instance (INVENTORY.md, "State"). -/
structure State where
  /-- which instance this is: the constants ID, CONFIG, P, MU, N follow from it (10_state.md R30, R31, R33) -/
  inst : Inst
  /-- E0 to E7 with SGN[0..7] (10_state.md R22, R23) -/
  e : Vector LimbReg nreg
  /-- W with WSGN (10_state.md R24) -/
  w : LimbReg
  /-- FLAGS (10_state.md R25) -/
  flags : Flags
  /-- STATUS (10_state.md R28) -/
  status : Status
  /-- LASTCMD, what a read of CMD returns (10_state.md R29) -/
  lastcmd : Word
  /-- the engine's hidden state (10_state.md R34) -/
  engine : Engine
  /-- the level of the reset input: true while asserted (70_reset_and_hazards.md R240) -/
  rst : Bool
  /-- MODEL's own field: what happens next, oldest first (notes/assumptions/6.md, 7.md) -/
  inputs : List Input
  /-- MODEL's own field: the data the host's last access returned, none if it was a write (notes/assumptions/12.md) -/
  rdata : Option Word
  deriving DecidableEq, Repr

/-- A data register of `n` limbs right after reset: no limb written (10_state.md R40, R41), sign 0. The spec gives the limbs
no value; the model's is 0. DESIGN CHOICE, unsafe (notes/assumptions/4.md). -/
def LimbReg.reset (n : Nat) : LimbReg := { limbs := List.replicate n { limb := 0, written := false }, sgn := false }

/-- The state after reset of a given instance (10_state.md R40, 70_reset_and_hazards.md R241). -/
def State.resetOf (inst : Inst) : State where
  inst := inst
  e := Vector.replicate nreg (LimbReg.reset inst.variant.n)
  w := LimbReg.reset (2 * inst.variant.n)
  flags := { c := false, lt := false, eq := false, gt := false }
  status := { busy := false, done := false, err := false, errcode := 0 }
  lastcmd := 0
  engine := .idle
  rst := false
  inputs := []
  rdata := none

/-- The machine right after reset (10_state.md R40): FAC256 with its window at 0 (notes/assumptions/1.md, 3.md). -/
def State.reset : State := State.resetOf Inst.default

end Sys2Proof.Machine
end

