-- ==== Sys2Proof/Machine/Operands.lean ====
section
/-!
DEFINITION. Operands of commands: the value of a limb array (00_scope.md R4), the unsigned and signed readings of a
register (10_state.md R23, 41_signed.md R120), and the two result writes. Every command reads and writes E and W through
these.
-/

namespace Sys2Proof.Machine

open Sys2Proof.Config

/-- val(L) = sum over j of L[j] * 2^(64*j) (00_scope.md R4). -/
def limbsVal : List LimbSlot → Nat
  | [] => 0
  | x :: rest => x.limb.toNat + limbBase * limbsVal rest

/-- The `n` limbs of a value, least significant first, all of them written: what a command stores (10_state.md R41). -/
def limbsOf : Nat → Nat → List LimbSlot
  | 0, _ => []
  | n + 1, v => { limb := BitVec.ofNat 64 v, written := true } :: limbsOf n (v / limbBase)

/-- Limb j of a register. Limb slots past its length do not exist (20_memory.md R52); none is asked for
(notes/assumptions/21.md). -/
def LimbReg.limb (r : LimbReg) (j : Nat) : Limb := (r.limbs.getD j { limb := 0, written := false }).limb

/-- Store limb j of a register and mark it written; the other limbs and the sign stay (20_memory.md R55, 10_state.md R41). -/
def LimbReg.setLimb (r : LimbReg) (j : Nat) (v : Limb) : LimbReg :=
  { r with limbs := r.limbs.set j { limb := v, written := true } }

/-- Some limb of the register has not been written since reset (10_state.md R41). -/
def LimbReg.unwritten (r : LimbReg) : Bool := r.limbs.any fun x => !x.written

/-- The unsigned value of a register (00_scope.md R4, R11). -/
def LimbReg.val (r : LimbReg) : Nat := limbsVal r.limbs

/-- The signed value: sign and magnitude; a zero magnitude has value 0 under either sign (41_signed.md R120). -/
def LimbReg.sval (r : LimbReg) : Int := if r.sgn then -(r.val : Int) else (r.val : Int)

/-- N of the instance. -/
def State.n (s : State) : Nat := s.inst.variant.n

/-- M = 2^(64*N) of the instance. -/
def State.radix (s : State) : Nat := s.inst.variant.radix

/-- P of the instance. -/
def State.p (s : State) : Nat := s.inst.variant.p

/-- E[i], read as its value (00_scope.md R12). -/
def State.readE (s : State) (i : Reg) : Nat := (s.e.get i).val

/-- sval(i) (41_signed.md R120). -/
def State.svalE (s : State) (i : Reg) : Int := (s.e.get i).sval

/-- W, read as its value (10_state.md R24). -/
def State.readW (s : State) : Nat := s.w.val

/-- swide (41_signed.md R120). -/
def State.swide (s : State) : Int := s.w.sval

/-- `E[rd] <- v` and `SGN[rd] <- neg`: a command that writes an element register writes every limb of it and its sign bit
(10_state.md R23, R41). Each rule makes v fit N limbs (00_scope.md R11). -/
def State.writeE (s : State) (rd : Reg) (v : Nat) (neg : Bool) : State :=
  { s with e := s.e.set rd { limbs := limbsOf s.n v, sgn := neg } }

/-- `W <- v` and `WSGN <- neg` (10_state.md R24). -/
def State.writeW (s : State) (v : Nat) (neg : Bool) : State :=
  { s with w := { limbs := limbsOf (2 * s.n) v, sgn := neg } }

/-- The element registers a command reads (the operands of its rule in 40_unsigned.md to 43_field.md). -/
def sourcesOf : Instr → List Reg
  | .add _ rs1 rs2 => [rs1, rs2]
  | .sub _ rs1 rs2 => [rs1, rs2]
  | .mulw rs1 rs2 => [rs1, rs2]
  | .cmp rs1 rs2 => [rs1, rs2]
  | .shl1 _ rs1 => [rs1]
  | .shr1 _ rs1 => [rs1]
  | .sadd _ rs1 rs2 => [rs1, rs2]
  | .ssub _ rs1 rs2 => [rs1, rs2]
  | .smulw rs1 rs2 => [rs1, rs2]
  | .sfold _ rs1 => [rs1]
  | .sfoldw _ => []
  | .reduce _ => []
  | .norm _ rs1 _ => [rs1]
  | .fadd _ rs1 rs2 => [rs1, rs2]
  | .fsub _ rs1 rs2 => [rs1, rs2]
  | .fneg _ rs1 => [rs1]
  | .fmul _ rs1 rs2 => [rs1, rs2]
  | .finv _ rs1 => [rs1]
  | .fdiv _ rs1 rs2 => [rs1, rs2]
  | .fpow _ rs1 rs2 => [rs1, rs2]

/-- The element register a command writes, with its sign (10_state.md R23); none for a command that writes W or FLAGS. -/
def destOf : Instr → Option Reg
  | .add rd _ _ => some rd
  | .sub rd _ _ => some rd
  | .mulw _ _ => none
  | .cmp _ _ => none
  | .shl1 rd _ => some rd
  | .shr1 rd _ => some rd
  | .sadd rd _ _ => some rd
  | .ssub rd _ _ => some rd
  | .smulw _ _ => none
  | .sfold rd _ => some rd
  | .sfoldw rd => some rd
  | .reduce rd => some rd
  | .norm rd _ _ => some rd
  | .fadd rd _ _ => some rd
  | .fsub rd _ _ => some rd
  | .fneg rd _ => some rd
  | .fmul rd _ _ => some rd
  | .finv rd _ => some rd
  | .fdiv rd _ _ => some rd
  | .fpow rd _ _ => some rd

/-- REDUCE and SFOLDW read W, no other command does (10_state.md R24). -/
def readsWide (i : Instr) : Bool :=
  match i.op with
  | .reduce => true
  | .sfoldw => true
  | .add | .sub | .mulw | .cmp | .shl1 | .shr1 | .sadd | .ssub | .smulw | .sfold => false
  | .norm | .fadd | .fsub | .fneg | .fmul | .finv | .fdiv | .fpow => false

/-- The command reads a register with an unwritten limb (10_state.md R41). -/
def State.readsUnwritten (s : State) (i : Instr) : Bool :=
  ((sourcesOf i).any fun r => (s.e.get r).unwritten) || (readsWide i && s.w.unwritten)

end Sys2Proof.Machine
end

