-- ==== Sys2Proof/Machine/Flags.lean ====
section
/-!
DEFINITION. The flag computations (10_state.md R25). A command writes only the flags in its row: `setC` leaves LT, EQ and
GT, `setOrder` leaves C.
-/

namespace Sys2Proof.Machine

/-- C after ADD: the carry out of the N-limb sum (40_unsigned.md R100). -/
def carryOut (radix a b : Nat) : Bool := decide (radix ≤ a + b)

/-- C after SUB: the borrow out (40_unsigned.md R101). -/
def borrowOut (a b : Nat) : Bool := decide (a < b)

/-- C after SHL1: the bit shifted out at the top, a[64*N - 1] (40_unsigned.md R104). -/
def topBit (n a : Nat) : Bool := decide (a / 2 ^ (64 * n - 1) % 2 = 1)

/-- C after SHR1: the bit shifted out at the bottom, a[0] (40_unsigned.md R105). -/
def bottomBit (a : Nat) : Bool := decide (a % 2 = 1)

/-- `FLAGS.C <- c` (10_state.md R25). -/
def State.setC (s : State) (c : Bool) : State := { s with flags := { s.flags with c := c } }

/-- `FLAGS.LT`, `FLAGS.EQ` and `FLAGS.GT` from the integer order of two values (40_unsigned.md R103). -/
def State.setOrder (s : State) (a b : Nat) : State :=
  { s with flags := { s.flags with lt := decide (a < b), eq := decide (a = b), gt := decide (b < a) } }

/-- The number whose bits are given, bit 0 first. -/
def bitsToNat : List Bool → Nat
  | [] => 0
  | b :: rest => b.toNat + 2 * bitsToNat rest

/-- FLAGS as the host reads it: C, LT, EQ, GT in bits 0 to 3, bits 63:4 read 0 (10_state.md R25). -/
def State.flagsWord (s : State) : Word :=
  BitVec.ofNat 64 (bitsToNat [s.flags.c, s.flags.lt, s.flags.eq, s.flags.gt])

end Sys2Proof.Machine
end

