-- ==== Sys2Proof/Machine/Ops.lean ====
section
/-!
DEFINITION. The shared operations over the control state: acceptance of a command (20_memory.md R60), completion without
an error (70_reset_and_hazards.md R250), ERROR ENTRY (60_exceptions.md R203: the FAC's only exception) and the return from
it (R206), the reset line (70_reset_and_hazards.md R240), and the ways a command's value or error becomes an outcome.
-/

namespace Sys2Proof.Machine

open Sys2Proof.Config

/-- What a meaning answers. -/
abbrev Result := Host.Outcome State Fault Refusal

/-- The errors a command raises (60_exceptions.md R201). -/
inductive ErrCode where
  | illegal | range | barrettBound | zeroInverse
  deriving DecidableEq, Repr

/-- STATUS.ERRCODE of an error (60_exceptions.md R201). -/
def ErrCode.code : ErrCode → BitVec 4
  | .illegal => 1
  | .range => 2
  | .barrettBound => 3
  | .zeroInverse => 4

/-- Acceptance of the value v as a command (20_memory.md R60): LASTCMD <- v, DONE <- 0, BUSY <- 1, and the engine latches
v (10_state.md R34). -/
def State.accept (s : State) (v : Word) : State :=
  { s with lastcmd := v, status := { s.status with done := false, busy := true }, engine := .running v }

/-- Completion without an error (70_reset_and_hazards.md R250): BUSY <- 0, DONE <- 1, and the hidden state is gone. -/
def State.finish (s : State) : State :=
  { s with status := { s.status with busy := false, done := true }, engine := .idle }

/-- ERROR ENTRY (60_exceptions.md R203, 00_scope.md R13): nothing the command staged is written; ERRCODE <- code, ERR <- 1,
BUSY <- 0, DONE <- 1; LASTCMD keeps the failing command. -/
def State.raiseError (s : State) (c : ErrCode) : State :=
  { s with status := { busy := false, done := true, err := true, errcode := c.code }, engine := .idle }

/-- RETURN FROM AN ERROR (60_exceptions.md R206, 20_memory.md R56): ERR and ERRCODE become 0, nothing else changes. -/
def State.clearError (s : State) : State := { s with status := { s.status with err := false, errcode := 0 } }

/-- RESET with `rst` at a level (70_reset_and_hazards.md R240): a running command is abandoned with none of its results
written, the hidden state is discarded, and the state holds the reset values of 10_state.md R40. The pending inputs are the
outside world's and stay. -/
def State.enterReset (s : State) (level : Bool) : State :=
  { State.resetOf s.inst with rst := level, inputs := s.inputs }

/-- The outside drives `rst` to a level (70_reset_and_hazards.md R240). Only an assertion of `rst` and its end are a reset: the
reset values are set when `rst` is asserted, DEDUCED, and when it is deasserted. DESIGN CHOICE: an input that finds `rst` at
its level already is no edge: the FAC in reset holds the reset values, and the FAC out of reset stays as it is, its running
command too (notes/assumptions/13.md). -/
def State.setRst (s : State) (level : Bool) : State :=
  if level || s.rst then s.enterReset level else s

/-- A command whose result is an unsigned value of E[rd], or an error: `E[rd] <- v; SGN[rd] <- 0` (43_field.md). -/
def State.finishElem (s : State) (rd : Reg) : Except ErrCode Nat → Result
  | .ok v => .next (s.writeE rd v false).finish
  | .error c => .next (s.raiseError c)

/-- A command whose result is a signed value of E[rd]: RANGE when its magnitude does not fit N limbs, else
`E[rd] <- |v|; SGN[rd] <- (v < 0)` (41_signed.md R120, R121, R122). -/
def State.finishSigned (s : State) (rd : Reg) (v : Int) : Result :=
  if s.radix ≤ v.natAbs then .next (s.raiseError .range)
  else .next (s.writeE rd v.natAbs (decide (v < 0))).finish

/-- STATUS as the host reads it: BUSY, DONE, ERR in bits 0 to 2, bit 3 reads 0, ERRCODE in bits 7:4, bits 63:8 read 0
(10_state.md R28). -/
def State.statusWord (s : State) : Word :=
  BitVec.ofNat 64 (bitsToNat [s.status.busy, s.status.done, s.status.err] + 2 ^ 4 * s.status.errcode.toNat)

/-- SIGNS as the host reads it: SGN[i] in bit i, WSGN in bit 8, bits 63:9 read 0 (10_state.md R32). -/
def State.signsWord (s : State) : Word :=
  BitVec.ofNat 64 (bitsToNat (s.e.toList.map LimbReg.sgn ++ [s.w.sgn]))

/-- A host write of SIGNS: SGN[0..7] and WSGN from bits 8:0, the other bits ignored (10_state.md R32). -/
def State.setSigns (s : State) (v : Word) : State :=
  { s with
    e := Vector.ofFn fun i => { s.e.get i with sgn := v.getLsbD i.val }
    w := { s.w with sgn := v.getLsbD 8 } }

/-- A host write of limb j of E[i]; SGN[i] stays (20_memory.md R55). -/
def State.setLimbE (s : State) (i : Reg) (j : Nat) (v : Limb) : State :=
  { s with e := s.e.set i ((s.e.get i).setLimb j v) }

/-- A host write of limb j of W; WSGN stays (20_memory.md R55). -/
def State.setLimbW (s : State) (j : Nat) (v : Limb) : State := { s with w := s.w.setLimb j v }

end Sys2Proof.Machine
end

