-- ==== Sys2Proof/Machine/Reduction.lean ====
section
/-!
DEFINITION. The reduction family (42_reduction.md): the Barrett listing (R140), REDUCE and NORM. The loops that subtract P
while a value is at least P are computed as the value they leave, the residue mod P (92_eei_decisions.md D38,
notes/assumptions/14.md).
-/

namespace Sys2Proof.Machine

open Sys2Proof.Config

/-- q1 = floor(x / b^(k-1)), "drop the low k-1 limbs" (42_reduction.md R140). -/
def barrettQ1 (c : Variant) (x : Nat) : Nat := x / limbBase ^ (c.n - 1)

/-- q2 = q1 * MU (42_reduction.md R140). -/
def barrettQ2 (c : Variant) (x : Nat) : Nat := barrettQ1 c x * c.mu

/-- q3 = floor(q2 / b^(k+1)), "drop the low k+1 limbs" (42_reduction.md R140). -/
def barrettQ3 (c : Variant) (x : Nat) : Nat := barrettQ2 c x / limbBase ^ (c.n + 1)

/-- r before the final loop (42_reduction.md R140): r1 = x mod b^(k+1), r2 = (q3 * P) mod b^(k+1), r = r1 - r2, and "if
negative, add b^(k+1)". -/
def barrettRest (c : Variant) (x : Nat) : Nat :=
  let r1 := x % limbBase ^ (c.n + 1)
  let r2 := barrettQ3 c x * c.p % limbBase ^ (c.n + 1)
  if r1 < r2 then r1 + limbBase ^ (c.n + 1) - r2 else r1 - r2

/-- How often the final loop "while r >= P: r = r - P" runs (42_reduction.md R140, R141). -/
def barrettSteps (c : Variant) (x : Nat) : Nat := barrettRest c x / c.p

/-- Barrett(x) (42_reduction.md R140): BARRETT_BOUND when x >= BARRETT_BOUND, else what the final loop leaves. -/
def barrett (c : Variant) (x : Nat) : Except ErrCode Nat :=
  if c.barrettBound ≤ x then .error .barrettBound else .ok (barrettRest c x % c.p)

/-- The document's loop "repeatedly subtracts P while the value is ≥ P" (42_reduction.md R144), for at most `fuel` tests of its
condition; none when they do not suffice. NORM writes the value it leaves, computed as the residue. -/
def subtractWhile (p : Nat) : Nat → Nat → Option Nat
  | 0, _ => none
  | fuel + 1, v => if p ≤ v then subtractWhile p fuel (v - p) else some v

/-- REDUCE rd (42_reduction.md R143): W read as unsigned, WSGN ignored. -/
def execReduce (rd : Reg) (s : State) : Result := s.finishElem rd (barrett s.inst.variant s.readW)

/-- NORM rd, rs1, hint (42_reduction.md R144): the hint has no effect (R145). -/
def execNorm (rd rs1 : Reg) (_hint : Nat) (s : State) : Result := s.finishElem rd (.ok (s.readE rs1 % s.p))

end Sys2Proof.Machine
end

