-- ==== Sys2Proof/Machine/Field.lean ====
section
/-!
DEFINITION. The field family (43_field.md): FADD, FSUB, FNEG, FMUL, FINV, FDIV, FPOW, and the square-and-multiply engine
PowEngine (R166) that the last three use. W is not written: products stay in the hidden state (R163).
-/

namespace Sys2Proof.Machine

open Sys2Proof.Config

/-- FADD's value (43_field.md R160): "if there is a carry-out or the raw sum ≥ P, subtract P once"; RANGE when the result
does not fit N limbs. -/
def fieldAdd (c : Variant) (a b : Nat) : Except ErrCode Nat :=
  let t := if c.p ≤ a + b then a + b - c.p else a + b
  if c.radix ≤ t then .error .range else .ok t

/-- FSUB's value (43_field.md R161): "if borrow occurs, add P once"; RANGE when one addition is not enough. -/
def fieldSub (c : Variant) (a b : Nat) : Except ErrCode Nat :=
  if b ≤ a then .ok (a - b)
  else if a + c.p < b then .error .range
  else .ok (a + c.p - b)

/-- FNEG's value (43_field.md R162): "P - a if a ≠ 0, else 0"; RANGE when P - a would be negative. -/
def fieldNeg (c : Variant) (a : Nat) : Except ErrCode Nat :=
  if a = 0 then .ok 0
  else if a ≤ c.p then .ok (c.p - a)
  else .error .range

/-- FMUL's value (43_field.md R163): Barrett of the exact product. -/
def fieldMul (c : Variant) (a b : Nat) : Except ErrCode Nat := barrett c (a * b)

/-- One round of PowEngine's loop for exponent bit `bit` (43_field.md R166): square, then multiply by the base when the bit
is 1. -/
def powRound (c : Variant) (base : Nat) (bit : Bool) (r : Nat) : Except ErrCode Nat :=
  match barrett c (r * r) with
  | .error x => .error x
  | .ok q => if bit then barrett c (q * base) else .ok q

/-- PowEngine's loop over the exponent bits i-1 down to 0, the most significant first (43_field.md R166). -/
def powLoop (c : Variant) (base e : Nat) : Nat → Nat → Except ErrCode Nat
  | 0, r => .ok r
  | i + 1, r =>
    match powRound c base (decide (e / 2 ^ i % 2 = 1)) r with
    | .error x => .error x
    | .ok q => powLoop c base e i q

/-- PowEngine(a, e) (43_field.md R166): the base normalized, r = 1, and all 64*N exponent bits from the top. -/
def powEngine (c : Variant) (a e : Nat) : Except ErrCode Nat := powLoop c (a % c.p) e (64 * c.n) 1

/-- FINV's value (43_field.md R164): ZERO_INVERSE when a mod P = 0, else a^(P-2) by PowEngine. -/
def fieldInv (c : Variant) (a : Nat) : Except ErrCode Nat :=
  if a % c.p = 0 then .error .zeroInverse else powEngine c a (c.p - 2)

/-- FDIV's value (43_field.md R165): the divisor is checked first, then inverted, then multiplied (60_exceptions.md R204). -/
def fieldDiv (c : Variant) (a b : Nat) : Except ErrCode Nat :=
  match fieldInv c b with
  | .error x => .error x
  | .ok y => fieldMul c a y

/-- FADD rd, rs1, rs2 (43_field.md R160). -/
def execFadd (rd rs1 rs2 : Reg) (s : State) : Result :=
  s.finishElem rd (fieldAdd s.inst.variant (s.readE rs1) (s.readE rs2))

/-- FSUB rd, rs1, rs2 (43_field.md R161). -/
def execFsub (rd rs1 rs2 : Reg) (s : State) : Result :=
  s.finishElem rd (fieldSub s.inst.variant (s.readE rs1) (s.readE rs2))

/-- FNEG rd, rs1 (43_field.md R162). -/
def execFneg (rd rs1 : Reg) (s : State) : Result := s.finishElem rd (fieldNeg s.inst.variant (s.readE rs1))

/-- FMUL rd, rs1, rs2 (43_field.md R163). -/
def execFmul (rd rs1 rs2 : Reg) (s : State) : Result :=
  s.finishElem rd (fieldMul s.inst.variant (s.readE rs1) (s.readE rs2))

/-- FINV rd, rs1 (43_field.md R164). -/
def execFinv (rd rs1 : Reg) (s : State) : Result := s.finishElem rd (fieldInv s.inst.variant (s.readE rs1))

/-- FDIV rd, rs1, rs2 (43_field.md R165): E[rs1] divided by E[rs2]. -/
def execFdiv (rd rs1 rs2 : Reg) (s : State) : Result :=
  s.finishElem rd (fieldDiv s.inst.variant (s.readE rs1) (s.readE rs2))

/-- FPOW rd, rs1, rs2 (43_field.md R168): the exponent E[rs2] is an unsigned 64N-bit integer, used as given. -/
def execFpow (rd rs1 rs2 : Reg) (s : State) : Result :=
  s.finishElem rd (powEngine s.inst.variant (s.readE rs1) (s.readE rs2))

end Sys2Proof.Machine
end

