-- ==== Sys2Proof/Machine/Signed.lean ====
section
/-!
DEFINITION. The signed family (41_signed.md): SADD, SSUB, SMULW, SFOLD, SFOLDW. Values are sign and magnitude (R120). The
fold loops are computed as the value they leave, the floor residue mod P (92_eei_decisions.md D38,
notes/assumptions/14.md).
-/

namespace Sys2Proof.Machine

/-- "fold into [0,P)": v mod P, the floor residue, also for negative v (41_signed.md R124, 00_scope.md R11). -/
def foldResidue (p : Nat) (v : Int) : Nat := (v % p).toNat

/-- The document's loop "adds P repeatedly while negative" (41_signed.md R124), for at most `fuel` tests of its condition. -/
def addWhile (p : Nat) : Nat → Int → Option Int
  | 0, _ => none
  | fuel + 1, v => if v < 0 then addWhile p fuel (v + p) else some v

/-- The document's fold (41_signed.md R124): "adds P repeatedly while negative and subtracts P repeatedly while ≥P". SFOLD and
SFOLDW write the value it leaves, computed as `foldResidue`. -/
def foldLoop (p fuel : Nat) (v : Int) : Option Nat :=
  match addWhile p fuel v with
  | none => none
  | some u => subtractWhile p fuel u.toNat

/-- SADD rd, rs1, rs2 (41_signed.md R121). -/
def execSadd (rd rs1 rs2 : Reg) (s : State) : Result := s.finishSigned rd (s.svalE rs1 + s.svalE rs2)

/-- SSUB rd, rs1, rs2 (41_signed.md R122). -/
def execSsub (rd rs1 rs2 : Reg) (s : State) : Result := s.finishSigned rd (s.svalE rs1 - s.svalE rs2)

/-- SMULW rs1, rs2 (41_signed.md R123). -/
def execSmulw (rs1 rs2 : Reg) (s : State) : Result :=
  let v := s.svalE rs1 * s.svalE rs2
  .next (s.writeW v.natAbs (decide (v < 0))).finish

/-- SFOLD rd, rs1 (41_signed.md R124). -/
def execSfold (rd rs1 : Reg) (s : State) : Result := s.finishElem rd (.ok (foldResidue s.p (s.svalE rs1)))

/-- SFOLDW rd (41_signed.md R125): BARRETT_BOUND does not apply. -/
def execSfoldw (rd : Reg) (s : State) : Result := s.finishElem rd (.ok (foldResidue s.p s.swide))

end Sys2Proof.Machine
end

