-- ==== Sys2Proof/Machine/Unsigned.lean ====
section
/-!
DEFINITION. The unsigned family (40_unsigned.md): ADD, SUB, MULW, CMP, SHL1, SHR1. Operands are read before anything is
written (00_scope.md R14); the signs of the sources are ignored.
-/

namespace Sys2Proof.Machine

/-- ADD rd, rs1, rs2 (40_unsigned.md R100). -/
def execAdd (rd rs1 rs2 : Reg) (s : State) : Result :=
  let a := s.readE rs1
  let b := s.readE rs2
  .next ((s.writeE rd ((a + b) % s.radix) false).setC (carryOut s.radix a b)).finish

/-- SUB rd, rs1, rs2 (40_unsigned.md R101): (a - b) mod M is the floor residue, also for a < b (00_scope.md R11). -/
def execSub (rd rs1 rs2 : Reg) (s : State) : Result :=
  let a := s.readE rs1
  let b := s.readE rs2
  .next ((s.writeE rd (((a : Int) - b) % s.radix).toNat false).setC (borrowOut a b)).finish

/-- MULW rs1, rs2 (40_unsigned.md R102). -/
def execMulw (rs1 rs2 : Reg) (s : State) : Result :=
  let a := s.readE rs1
  let b := s.readE rs2
  .next (s.writeW (a * b) false).finish

/-- CMP rs1, rs2 (40_unsigned.md R103). -/
def execCmp (rs1 rs2 : Reg) (s : State) : Result :=
  let a := s.readE rs1
  let b := s.readE rs2
  .next (s.setOrder a b).finish

/-- SHL1 rd, rs1 (40_unsigned.md R104). -/
def execShl1 (rd rs1 : Reg) (s : State) : Result :=
  let a := s.readE rs1
  .next ((s.writeE rd (a * 2 % s.radix) false).setC (topBit s.n a)).finish

/-- SHR1 rd, rs1 (40_unsigned.md R105). -/
def execShr1 (rd rs1 : Reg) (s : State) : Result :=
  let a := s.readE rs1
  .next ((s.writeE rd (a / 2) false).setC (bottomBit a)).finish

end Sys2Proof.Machine
end

