-- ==== Sys2Proof/Machine/Dispatch.lean ====
section
/-!
DEFINITION. One arm per command (30_encoding.md R86): each calls its own meaning.
-/

namespace Sys2Proof.Machine

def exec (i : Instr) (s : State) : Host.Outcome State Fault Refusal :=
  match i with
  | .add rd rs1 rs2 => Sys2Proof.Machine.execAdd rd rs1 rs2 s
  | .sub rd rs1 rs2 => Sys2Proof.Machine.execSub rd rs1 rs2 s
  | .mulw rs1 rs2 => Sys2Proof.Machine.execMulw rs1 rs2 s
  | .cmp rs1 rs2 => Sys2Proof.Machine.execCmp rs1 rs2 s
  | .shl1 rd rs1 => Sys2Proof.Machine.execShl1 rd rs1 s
  | .shr1 rd rs1 => Sys2Proof.Machine.execShr1 rd rs1 s
  | .sadd rd rs1 rs2 => Sys2Proof.Machine.execSadd rd rs1 rs2 s
  | .ssub rd rs1 rs2 => Sys2Proof.Machine.execSsub rd rs1 rs2 s
  | .smulw rs1 rs2 => Sys2Proof.Machine.execSmulw rs1 rs2 s
  | .sfold rd rs1 => Sys2Proof.Machine.execSfold rd rs1 s
  | .sfoldw rd => Sys2Proof.Machine.execSfoldw rd s
  | .reduce rd => Sys2Proof.Machine.execReduce rd s
  | .norm rd rs1 hint => Sys2Proof.Machine.execNorm rd rs1 hint s
  | .fadd rd rs1 rs2 => Sys2Proof.Machine.execFadd rd rs1 rs2 s
  | .fsub rd rs1 rs2 => Sys2Proof.Machine.execFsub rd rs1 rs2 s
  | .fneg rd rs1 => Sys2Proof.Machine.execFneg rd rs1 s
  | .fmul rd rs1 rs2 => Sys2Proof.Machine.execFmul rd rs1 rs2 s
  | .finv rd rs1 => Sys2Proof.Machine.execFinv rd rs1 s
  | .fdiv rd rs1 rs2 => Sys2Proof.Machine.execFdiv rd rs1 rs2 s
  | .fpow rd rs1 rs2 => Sys2Proof.Machine.execFpow rd rs1 rs2 s

end Sys2Proof.Machine
end

