-- ==== Sys2Proof/Machine/Window.lean ====
section
/-!
DEFINITION. The register window (20_memory.md): its map, the access rules of every register, and one host access. A refused
access is the fault HOST_BUS_ERROR of the host's step and changes no FAC state (R59).
-/

namespace Sys2Proof.Machine

open Sys2Proof.Config

/-- The named slots of the window (20_memory.md R52). -/
inductive WinReg where
  | id | config | cmd | status | flags | signs
  | e (i : Reg) (j : Nat)
  | w (j : Nat)
  | p (j : Nat)
  | mu (j : Nat)
  deriving DecidableEq, Repr

/-- The offset of a slot (20_memory.md R52). -/
def WinReg.offset : WinReg → Nat
  | .id => 0x000
  | .config => 0x008
  | .cmd => 0x010
  | .status => 0x018
  | .flags => 0x020
  | .signs => 0x028
  | .e i j => 0x100 + 0x40 * i.val + 8 * j
  | .w j => 0x300 + 8 * j
  | .p j => 0x400 + 8 * j
  | .mu j => 0x440 + 8 * j

/-- The condition for a slot to exist (20_memory.md R52). -/
def WinReg.present (c : Variant) : WinReg → Bool
  | .id => true
  | .config => true
  | .cmd => true
  | .status => true
  | .flags => true
  | .signs => true
  | .e _ j => decide (j < c.n)
  | .w j => decide (j < 2 * c.n)
  | .p j => decide (j < c.n)
  | .mu j => decide (j < c.n + 1)

/-- The size of the window in bytes (20_memory.md R50). -/
def windowBytes : Nat := 4096

/-- The slot at a window offset that is a multiple of 8; none for a reserved offset (20_memory.md R52, R53). -/
def slotAt (c : Variant) (off : Nat) : Option WinReg :=
  if off = 0x000 then some .id
  else if off = 0x008 then some .config
  else if off = 0x010 then some .cmd
  else if off = 0x018 then some .status
  else if off = 0x020 then some .flags
  else if off = 0x028 then some .signs
  else if off < 0x100 then none
  else if off < 0x300 then
    if (off - 0x100) % 0x40 / 8 < c.n then some (.e (Fin.ofNat 8 ((off - 0x100) / 0x40)) ((off - 0x100) % 0x40 / 8))
    else none
  else if off < 0x400 then
    if (off - 0x300) / 8 < 2 * c.n then some (.w ((off - 0x300) / 8)) else none
  else if off < 0x440 then
    if (off - 0x400) / 8 < c.n then some (.p ((off - 0x400) / 8)) else none
  else
    if (off - 0x440) / 8 < c.n + 1 then some (.mu ((off - 0x440) / 8)) else none

/-- Limb j of a value (00_scope.md R4). -/
def limbOfVal (v j : Nat) : Limb := BitVec.ofNat 64 (v / limbBase ^ j)

/-- The ID constant: the bytes 'F', 'A', 'C' from byte 0 up and the command-set version 1 in bits 31:24 (10_state.md R30). -/
def idWord : Word := 0x0000000001434146

/-- The CONFIG constant: N in 7:0, BYTEW in 15:8, NREG in 23:16, FIELD in 31:24, PBITS in 47:32, 0 above (10_state.md R31). -/
def configWord (c : Variant) : Word :=
  BitVec.ofNat 64 (c.n + c.bytew * 2 ^ 8 + nreg * 2 ^ 16 + c.field * 2 ^ 24 + c.pbits * 2 ^ 32)

/-- What a host read of a slot returns (20_memory.md R52, R54 to R56; 10_state.md R29, R33). -/
def State.readReg (s : State) : WinReg → Word
  | .id => idWord
  | .config => configWord s.inst.variant
  | .cmd => s.lastcmd
  | .status => s.statusWord
  | .flags => s.flagsWord
  | .signs => s.signsWord
  | .e i j => (s.e.get i).limb j
  | .w j => s.w.limb j
  | .p j => limbOfVal s.inst.variant.p j
  | .mu j => limbOfVal s.inst.variant.mu j

/-- The slots a host may read while BUSY = 1 (20_memory.md R58). -/
def WinReg.readableBusy : WinReg → Bool
  | .id => true
  | .config => true
  | .cmd => true
  | .status => true
  | .flags => false
  | .signs => false
  | .e _ _ => false
  | .w _ => false
  | .p _ => true
  | .mu _ => true

/-- The address of an access. -/
def Access.addr : Access → Nat
  | .read a _ => a
  | .write a _ _ => a

/-- The width of an access in bytes. -/
def Access.width : Access → Nat
  | .read _ w => w
  | .write _ w _ => w

/-- The slot an access reaches, or why it reaches none: the address is outside the window (20_memory.md R50), `rst` is
asserted (70_reset_and_hazards.md R240), the access is not 8 bytes wide or not at a multiple of 8 (20_memory.md R51, R63),
or the offset is reserved (R53). -/
def State.target (s : State) (a : Access) : Except Fault WinReg :=
  if a.addr < s.inst.facBase ∨ s.inst.facBase + windowBytes ≤ a.addr then .error (.outsideWindow a)
  else if s.rst then .error (.hostBusError a .inReset)
  else if a.width ≠ 8 then .error (.hostBusError a .width)
  else if (a.addr - s.inst.facBase) % 8 ≠ 0 then .error (.hostBusError a .misaligned)
  else
    match slotAt s.inst.variant (a.addr - s.inst.facBase) with
    | none => .error (.hostBusError a .reserved)
    | some r => .ok r

/-- A host read of a slot: the data, or the bus error of a slot that may not be read while BUSY = 1 (20_memory.md R54 to
R56, R58). No read has a side effect (R65): only the host's data changes. -/
def State.hostRead (s : State) (a : Access) (r : WinReg) : Result :=
  if s.status.busy && !r.readableBusy then .fault (.hostBusError a .busy)
  else .next { s with rdata := some (s.readReg r) }

/-- A write access is over and returned no data. -/
def State.noData (s : State) : State := { s with rdata := none }

/-- A write that stores data, allowed while the FAC is idle only (20_memory.md R55, R58). -/
def State.storeIdle (s : State) (a : Access) (t : State) : Result :=
  if s.status.busy then .fault (.hostBusError a .busy) else .next t.noData

/-- A host write of v to CMD (20_memory.md R60): a bus error while BUSY = 1, ignored while ERR = 1, else accepted. -/
def State.writeCmd (s : State) (a : Access) (v : Word) : Result :=
  if s.status.busy then .fault (.hostBusError a .busy)
  else if s.status.err then .next s.noData
  else .next (s.accept v).noData

/-- A host write of v to STATUS, allowed at any time (20_memory.md R56). -/
def State.writeStatus (s : State) (v : Word) : Result :=
  if v.getLsbD 2 then .next s.clearError.noData else .next s.noData

/-- A host write of v to a slot (20_memory.md R52, R55 to R58, R60; 10_state.md R32). -/
def State.hostWrite (s : State) (a : Access) (v : Word) : WinReg → Result
  | .id => .fault (.hostBusError a .readOnly)
  | .config => .fault (.hostBusError a .readOnly)
  | .cmd => s.writeCmd a v
  | .status => s.writeStatus v
  | .flags => .fault (.hostBusError a .readOnly)
  | .signs => s.storeIdle a (s.setSigns v)
  | .e i j => s.storeIdle a (s.setLimbE i j v)
  | .w j => s.storeIdle a (s.setLimbW j v)
  | .p _ => .fault (.hostBusError a .readOnly)
  | .mu _ => .fault (.hostBusError a .readOnly)

/-- One host access (20_memory.md R50 to R60). -/
def hostAccess (a : Access) (s : State) : Result :=
  match s.target a with
  | .error f => .fault f
  | .ok r =>
    match a with
    | .read _ _ => s.hostRead a r
    | .write _ _ v => s.hostWrite a v r

/-- The FAC after the host issued an access, answered or refused: a refused access changes no FAC state (20_memory.md R59,
60_exceptions.md R205). `step` stops at a refused access; this says how the FAC itself goes on. -/
def State.afterAccess (s : State) (a : Access) : State :=
  match hostAccess a s with
  | .next t => t
  | .fault _ => s
  | .refused _ => s

end Sys2Proof.Machine
end

