-- ==== Sys2Proof/Machine/Engine.lean ====
section
/-!
DEFINITION. The engine's turn (70_reset_and_hazards.md R250) and one input from outside. Execution reads the state at
completion, which is the state at acceptance: no host access can change E, SGN, W, WSGN or FLAGS while BUSY = 1 (R250,
20_memory.md R58; notes/assumptions/8.md).
-/

namespace Sys2Proof.Machine

/-- Execution and completion of the latched value v: the command it decodes to, or the error ILLEGAL
(30_encoding.md R89, 60_exceptions.md R203). -/
def runLatched (v : Word) (s : State) : Result :=
  match decode v with
  | .ok i => exec i s
  | .error _ => .next (s.raiseError .illegal)

/-- The engine's turn: it completes the running command; idle, it starts nothing of its own (10_state.md R20,
70_reset_and_hazards.md R250). -/
def engineTurn (s : State) : Result :=
  match s.engine with
  | .idle => .next s
  | .running v => runLatched v s

/-- One input, taken from the queue: a host access, the engine's turn, or a drive of `rst`. -/
def takeInput (x : Input) (s : State) : Result :=
  match x with
  | .access a => hostAccess a s
  | .engineTurn => engineTurn s
  | .rstLevel level => .next (s.setRst level)

end Sys2Proof.Machine
end

