-- ==== Sys2Proof/Machine/Step.lean ====
section
/-!
DEFINITION. One step of an instance, and where a command comes from.
-/

namespace Sys2Proof.Machine

/-- One step: the oldest pending input is taken (20_memory.md R70); with none pending the engine completes the command it
runs (70_reset_and_hazards.md R250), or the idle FAC stays as it is (60_exceptions.md R215; notes/assumptions/16.md). -/
def step (s : State) : Host.Outcome State Fault Refusal :=
  match s.inputs with
  | [] => engineTurn s
  | x :: rest => takeInput x { s with inputs := rest }

/-- The FAC fetches nothing: its host writes CMD (10_state.md R21). `withFetchWord` is the state right after the host's
write of the word was accepted (20_memory.md R60), `rst` deasserted and ERR clear as acceptance needs, with the engine's
turn next: the very next step runs that command and completes it (notes/assumptions/6.md). -/
def State.withFetchWord (s : State) (nbits w : Nat) : State :=
  let v : Word := BitVec.ofNat 64 (w % 2 ^ nbits)
  { s with
    lastcmd := v
    engine := .running v
    status := { busy := true, done := false, err := false, errcode := 0 }
    rst := false
    inputs := .engineTurn :: s.inputs }

end Sys2Proof.Machine
end

