-- ==== Sys2Proof/Machine/Assembler.lean ====
section
/-!
DEFINITION. The assembler syntax of 30_encoding.md R91 and the pseudo-instructions of R92: one command line to one
instruction, and the text of an instruction.
-/

namespace Sys2Proof.Machine

/-- The mnemonics of 30_encoding.md R86. -/
def mnemonic : Op → String
  | .add => "ADD"
  | .sub => "SUB"
  | .mulw => "MULW"
  | .cmp => "CMP"
  | .shl1 => "SHL1"
  | .shr1 => "SHR1"
  | .sadd => "SADD"
  | .ssub => "SSUB"
  | .smulw => "SMULW"
  | .sfold => "SFOLD"
  | .sfoldw => "SFOLDW"
  | .reduce => "REDUCE"
  | .norm => "NORM"
  | .fadd => "FADD"
  | .fsub => "FSUB"
  | .fneg => "FNEG"
  | .fmul => "FMUL"
  | .finv => "FINV"
  | .fdiv => "FDIV"
  | .fpow => "FPOW"

/-- Every operation of the opcode map. -/
def allOps : List Op :=
  [.add, .sub, .mulw, .cmp, .shl1, .shr1, .sadd, .ssub, .smulw, .sfold, .sfoldw]
    ++ [.reduce, .norm, .fadd, .fsub, .fneg, .fmul, .finv, .fdiv, .fpow]

/-- A register name, `e0` to `e7` (30_encoding.md R91). -/
def parseReg : List Char → Option Reg
  | ['E', d] => if '0' ≤ d ∧ d ≤ '7' then some (Fin.ofNat 8 (d.toNat - '0'.toNat)) else none
  | _ => none

/-- The value of an upper-case digit in base 10 or 16. -/
def digitVal (base : Nat) (d : Char) : Option Nat :=
  if '0' ≤ d ∧ d ≤ '9' then some (d.toNat - '0'.toNat)
  else if base = 16 ∧ 'A' ≤ d ∧ d ≤ 'F' then some (d.toNat - 'A'.toNat + 10)
  else none

/-- The value of a string of digits after `acc`. -/
def parseDigits (base : Nat) : List Char → Nat → Option Nat
  | [], acc => some acc
  | d :: rest, acc =>
    match digitVal base d with
    | none => none
    | some x => parseDigits base rest (acc * base + x)

/-- NORM's hint: a decimal or `0x` hex integer from 0 to 4095 (30_encoding.md R91). -/
def parseHint (cs : List Char) : Option Nat :=
  let v :=
    match cs with
    | [] => none
    | '0' :: 'X' :: [] => none
    | '0' :: 'X' :: ds => parseDigits 16 ds 0
    | ds => parseDigits 10 ds 0
  match v with
  | some x => if x < 4096 then some x else none
  | none => none

/-- Blanks between the parts of a line (notes/assumptions/20.md). -/
def isBlank (ch : Char) : Bool := ch == ' ' || ch == '\t'

/-- Drop the blanks at both ends. -/
def trimBlanks (cs : List Char) : List Char := ((cs.dropWhile isBlank).reverse.dropWhile isBlank).reverse

/-- The parts of a line between commas. -/
def splitCommas : List Char → List (List Char)
  | [] => [[]]
  | ch :: rest =>
    match splitCommas rest with
    | [] => [[ch]]
    | p :: ps => if ch == ',' then [] :: p :: ps else (ch :: p) :: ps

/-- The operands of a shape, in the order of 30_encoding.md R82: rd, rs1, rs2 and the hint, 0 where the shape has none. -/
def parseOperands (sh : Shape) (ops : List (List Char)) : Option (Reg × Reg × Reg × Nat) :=
  match sh, ops with
  | .r3, [d, a, b] =>
    match parseReg d, parseReg a, parseReg b with
    | some rd, some rs1, some rs2 => some (rd, rs1, rs2, 0)
    | _, _, _ => none
  | .r2, [d, a] =>
    match parseReg d, parseReg a with
    | some rd, some rs1 => some (rd, rs1, 0, 0)
    | _, _ => none
  | .c2, [a, b] =>
    match parseReg a, parseReg b with
    | some rs1, some rs2 => some (0, rs1, rs2, 0)
    | _, _ => none
  | .w1, [d] =>
    match parseReg d with
    | some rd => some (rd, 0, 0, 0)
    | none => none
  | .rh, [d, a, h] =>
    match parseReg d, parseReg a, parseHint h with
    | some rd, some rs1, some hint => some (rd, rs1, 0, hint)
    | _, _, _ => none
  | _, _ => none

/-- The pseudo-instructions of 30_encoding.md R92: `NORM rd, rs1`, `FSQR rd, rs1`, `SQRW rs1` and `CANON rd`. -/
def parsePseudo (name : List Char) (ops : List (List Char)) : Option Instr :=
  if name = "NORM".toList then (parseOperands .r2 ops).map fun x => .norm x.1 x.2.1 0
  else if name = "FSQR".toList then (parseOperands .r2 ops).map fun x => .fmul x.1 x.2.1 x.2.1
  else if name = "SQRW".toList then (parseOperands .w1 ops).map fun x => .mulw x.1 x.1
  else if name = "CANON".toList then (parseOperands .w1 ops).map fun x => .norm x.1 x.1 0
  else none

/-- A command given by its mnemonic and operands (30_encoding.md R91). -/
def parseCommand (name : List Char) (ops : List (List Char)) : Option Instr :=
  match allOps.find? fun o => (mnemonic o).toList == name with
  | none => none
  | some o => (parseOperands o.shape ops).map fun x => o.build x.1 x.2.1 x.2.2.1 x.2.2.2

/-- One command line (30_encoding.md R91): a comment runs from `;` to the end, case does not matter, the mnemonic comes
first and commas separate the operands. None where the line is no command. -/
def assembleLine (line : List Char) : Option Instr :=
  let cs := trimBlanks ((line.takeWhile (· != ';')).map Char.toUpper)
  let name := cs.takeWhile fun ch => !isBlank ch
  let ops := (splitCommas (cs.drop name.length)).map trimBlanks
  match parseCommand name ops with
  | some i => some i
  | none => parsePseudo name ops

/-- `assembleLine` on a string. -/
def assemble (line : String) : Option Instr := assembleLine line.toList

/-- The assembler text of an instruction (30_encoding.md R91). -/
def asmText (i : Instr) : String :=
  let f := i.fields
  let rd := "e" ++ toString f.rd
  let rs1 := "e" ++ toString f.rs1
  let rs2 := "e" ++ toString f.rs2
  let args :=
    match i.op.shape with
    | .r3 => rd ++ ", " ++ rs1 ++ ", " ++ rs2
    | .r2 => rd ++ ", " ++ rs1
    | .c2 => rs1 ++ ", " ++ rs2
    | .w1 => rd
    | .rh => rd ++ ", " ++ rs1 ++ ", " ++ toString f.imm
  mnemonic i.op ++ " " ++ args

end Sys2Proof.Machine
end

