-- ==== Sys2Proof/Machine/HostOps.lean ====
section
/-!
DEFINITION. The host's operations of 30_encoding.md R93 as the window accesses they expand to, and the host's byte
conventions of 20_memory.md R62. They are inputs of the machine, not state of it: a program is a list of them.
-/

namespace Sys2Proof.Machine

open Sys2Proof.Config

/-- The address of limb j of E[i] (20_memory.md R52, R55). -/
def addrE (c : Inst) (i : Reg) (j : Nat) : Nat := c.facBase + (WinReg.e i j).offset

/-- The address of limb j of W (20_memory.md R52, R55). -/
def addrW (c : Inst) (j : Nat) : Nat := c.facBase + (WinReg.w j).offset

/-- The address of CMD (20_memory.md R52). -/
def addrCmd (c : Inst) : Nat := c.facBase + WinReg.cmd.offset

/-- The address of STATUS (20_memory.md R52). -/
def addrStatus (c : Inst) : Nat := c.facBase + WinReg.status.offset

/-- The address of FLAGS (20_memory.md R52). -/
def addrFlags (c : Inst) : Nat := c.facBase + WinReg.flags.offset

/-- The address of SIGNS (20_memory.md R52). -/
def addrSigns (c : Inst) : Nat := c.facBase + WinReg.signs.offset

/-- MemWrite(addr, 8, v). -/
def memWrite (addr : Nat) (v : Word) : Input := .access (.write addr 8 v)

/-- MemRead(addr, 8). -/
def memRead (addr : Nat) : Input := .access (.read addr 8)

/-- `HLOAD ei, v` (30_encoding.md R93). -/
def hLoad (c : Inst) (i : Reg) (v : Nat) : List Input :=
  (List.range c.variant.n).map fun j => memWrite (addrE c i j) (limbOfVal v j)

/-- `HLOADW v` (30_encoding.md R93). -/
def hLoadW (c : Inst) (v : Nat) : List Input :=
  (List.range (2 * c.variant.n)).map fun j => memWrite (addrW c j) (limbOfVal v j)

/-- `HREAD ei` (30_encoding.md R93). -/
def hRead (c : Inst) (i : Reg) : List Input := (List.range c.variant.n).map fun j => memRead (addrE c i j)

/-- `HSIGNS s` (30_encoding.md R93). -/
def hSigns (c : Inst) (v : Word) : List Input := [memWrite (addrSigns c) v]

/-- `HCMD word`: the 32-bit word, zero-extended (30_encoding.md R93). -/
def hCmd (c : Inst) (word : BitVec 32) : List Input := [memWrite (addrCmd c) (word.setWidth 64)]

/-- One poll of STATUS. -/
def hPoll (c : Inst) : Input := memRead (addrStatus c)

/-- `HWAIT` (30_encoding.md R93) in a run where `polls` reads of STATUS return BUSY = 1 before the command completes: those
reads, the engine's turn, and the read that returns BUSY = 0 (70_reset_and_hazards.md R250, R251;
notes/assumptions/21.md). -/
def hWait (c : Inst) (polls : Nat) : List Input := List.replicate polls (hPoll c) ++ [.engineTurn, hPoll c]

/-- `HCLR` (30_encoding.md R93). -/
def hClr (c : Inst) : List Input := [memWrite (addrStatus c) 4]

/-- `X cmd`: HCMD encode(cmd), then HWAIT (30_encoding.md R93). -/
def xCmd (c : Inst) (i : Instr) (polls : Nat) : List Input := hCmd c ((encode i).setWidth 32) ++ hWait c polls

/-- The value of a byte buffer read big-endian (20_memory.md R62). -/
def bufferVal (buf : List Byte) : Nat := buf.foldl (fun v b => v * 256 + b.toNat) 0

/-- The low `n` bytes of a value, big-endian (20_memory.md R62). -/
def bytesOf (n v : Nat) : List Byte := (lanesOf n v).reverse

/-- A BYTEW-byte buffer is loaded into E[i] and canonicalized with NORM (20_memory.md R62). -/
def hLoadBuffer (c : Inst) (i : Reg) (buf : List Byte) (polls : Nat) : List Input :=
  hLoad c i (bufferVal buf) ++ xCmd c (.norm i i 0) polls

/-- A 64-byte digest is reduced into E[i]: through W and REDUCE in FAC256, through E[i] and NORM in FAC480
(20_memory.md R62). -/
def hLoadDigest (c : Inst) (i : Reg) (buf : List Byte) (polls : Nat) : List Input :=
  match c.variant with
  | .fac256 => hLoadW c (bufferVal buf) ++ xCmd c (.reduce i) polls
  | .fac480 _ _ => hLoad c i (bufferVal buf) ++ xCmd c (.norm i i 0) polls

/-- The host's byte output of a canonical register value: BYTEW bytes, big-endian (20_memory.md R62). -/
def State.canonicalBytes (s : State) (i : Reg) : Option (List Byte) :=
  if s.readE i < s.p then some (bytesOf s.inst.variant.bytew (s.readE i)) else none

/-- `k` steps of the machine, stopping at the first fault or refusal: `Host.Core.run` of the model's own step. -/
def runSteps : Nat → State → Result
  | 0, s => .next s
  | k + 1, s =>
    match step s with
    | .next t => runSteps k t
    | .fault r => .fault r
    | .refused r => .refused r

end Sys2Proof.Machine
end

