-- ==== Sys2Proof/Safety.lean ====
section
/-!
DEFINITION. What counts as a safe state and a safe run, and the shapes in which claims say what a command leaves behind.

A claim about a run normally assumes that no HOST_BUS_ERROR and no UNWRITTEN occurs (60_exceptions.md R216). HOST_BUS_ERROR
is a fault of `step`. UNWRITTEN is not: the model gives an unwritten limb its reset value (notes/assumptions/4.md, 5.md), and
`stepReadsUnwritten` says which steps rest on such a value.
-/

namespace Sys2Proof.Machine

open Sys2Proof.Config

/-- Every register has the limbs of its instance (10_state.md R22, R24). -/
abbrev State.Shaped (s : State) : Prop :=
  (∀ i : Reg, (s.e.get i).limbs.length = s.n) ∧ s.w.limbs.length = 2 * s.n

/-- The invariants of STATUS (10_state.md R28): ERR = 0 implies ERRCODE = 0; BUSY = 1 implies ERR = 0; the error codes are 1
to 4 (60_exceptions.md R201); BUSY = 1 implies DONE = 0 and ERR = 1 implies DONE = 1 (20_memory.md R60, 60_exceptions.md R203). -/
abbrev Status.Ok (st : Status) : Prop :=
  (st.err = false → st.errcode = 0) ∧ (st.busy = true → st.err = false) ∧
    (st.err = true → 1 ≤ st.errcode.toNat ∧ st.errcode.toNat ≤ 4) ∧
    (st.busy = true → st.done = false) ∧ (st.err = true → st.done = true)

/-- At most one of LT, EQ and GT is 1 (10_state.md R26). -/
abbrev Flags.Ok (f : Flags) : Prop :=
  (f.lt = true → f.eq = false ∧ f.gt = false) ∧ (f.eq = true → f.gt = false)

/-- BUSY = 1 exactly while the engine runs a command, and that command is LASTCMD (10_state.md R28, R29, R34;
notes/assumptions/17.md). -/
def State.engineOk (s : State) : Bool :=
  match s.engine with
  | .idle => !s.status.busy
  | .running v => s.status.busy && v == s.lastcmd

/-- The invariant every step keeps; while `rst` is asserted nothing runs (70_reset_and_hazards.md R240). -/
abbrev State.Inv (s : State) : Prop :=
  s.Shaped ∧ s.status.Ok ∧ s.flags.Ok ∧ s.engineOk = true ∧ (s.rst = true → s.status.busy = false)

/-- The input reads an unwritten limb: a command that reads such a register, or a host read of such a limb that the FAC
answers (10_state.md R41, 60_exceptions.md R216). A refused read returns no data, so it reads no limb: while BUSY = 1 it is
HOST_BUS_ERROR alone (20_memory.md R58, R59). -/
def inputReadsUnwritten (x : Input) (s : State) : Bool :=
  match x with
  | .rstLevel _ => false
  | .engineTurn =>
    match s.engine with
    | .idle => false
    | .running v =>
      match decode v with
      | .ok i => s.readsUnwritten i
      | .error _ => false
  | .access (.write _ _ _) => false
  | .access (.read a n) =>
    match s.target (.read a n) with
    | .ok (.e i j) => !s.status.busy && !((s.e.get i).limbs.getD j { limb := 0, written := false }).written
    | .ok (.w j) => !s.status.busy && !(s.w.limbs.getD j { limb := 0, written := false }).written
    | .ok .id | .ok .config | .ok .cmd | .ok .status | .ok .flags | .ok .signs | .ok (.p _) | .ok (.mu _) => false
    | .error _ => false

/-- The next step reads an unwritten limb: the spec's UNWRITTEN (60_exceptions.md R216). -/
def stepReadsUnwritten (s : State) : Bool :=
  match s.inputs with
  | [] => inputReadsUnwritten .engineTurn s
  | x :: rest => inputReadsUnwritten x { s with inputs := rest }

/-- `k` steps that neither stop nor read an unwritten limb. -/
def safeRun : Nat → State → Bool
  | 0, _ => true
  | k + 1, s =>
    !stepReadsUnwritten s &&
      match step s with
      | .next t => safeRun k t
      | .fault _ => false
      | .refused _ => false

/-! What a completed command leaves behind. -/

/-- `t` is `s` after a command that completed without an error, as far as the control state goes
(70_reset_and_hazards.md R250): BUSY = 0, DONE = 1, the engine idle, all else of the control state as before. -/
structure Completed (s t : State) : Prop where
  status : t.status = { s.status with busy := false, done := true }
  engine : t.engine = .idle
  lastcmd : t.lastcmd = s.lastcmd
  inst : t.inst = s.inst
  rst : t.rst = s.rst
  inputs : t.inputs = s.inputs
  rdata : t.rdata = s.rdata

/-- `t` has `v` in E[rd] with sign `neg`, every limb of it written, and every other element register as in `s`. -/
structure WroteElem (s t : State) (rd : Reg) (v : Nat) (neg : Bool) : Prop where
  value : t.readE rd = v
  sign : (t.e.get rd).sgn = neg
  length : (t.e.get rd).limbs.length = s.n
  written : (t.e.get rd).unwritten = false
  others : ∀ r : Reg, r ≠ rd → t.e.get r = s.e.get r

/-- `t` has `v` in W with sign `neg`, every limb of it written. -/
structure WroteWide (s t : State) (v : Nat) (neg : Bool) : Prop where
  value : t.readW = v
  sign : t.w.sgn = neg
  length : t.w.limbs.length = 2 * s.n
  written : t.w.unwritten = false

/-- `t` is `s` after a command that wrote E[rd] and nothing else but STATUS. -/
structure OnlyElem (s t : State) (rd : Reg) (v : Nat) (neg : Bool) : Prop where
  elem : WroteElem s t rd v neg
  wide : t.w = s.w
  flags : t.flags = s.flags
  control : Completed s t

/-- `t` is `s` after a command that wrote W and nothing else but STATUS. -/
structure OnlyWide (s t : State) (v : Nat) (neg : Bool) : Prop where
  wide : WroteWide s t v neg
  elems : t.e = s.e
  flags : t.flags = s.flags
  control : Completed s t

/-- `t` is `s` after a command that wrote E[rd] and FLAGS.C and nothing else but STATUS. -/
structure ElemAndCarry (s t : State) (rd : Reg) (v : Nat) (c : Bool) : Prop where
  elem : WroteElem s t rd v false
  wide : t.w = s.w
  flags : t.flags = { s.flags with c := c }
  control : Completed s t

/-- `t` is `s` after a command that ended in the error with this code: STATUS records it and the rest, but for the engine's
hidden state, is as before (60_exceptions.md R203). -/
def Errored (s t : State) (code : BitVec 4) : Prop :=
  t = { s with status := { busy := false, done := true, err := true, errcode := code }, engine := .idle }

end Sys2Proof.Machine
end

