-- ==== Sys2Proof/Certificates/Slice0/Obligations.lean ====
section
/-!
DEFINITION. The statements for the provers: what spec/'s numbered rules say the FAC does. None of them rests on a value the
model chose: the limbs of E and W after reset, the variant and the window address of `State.reset` (notes/assumptions/1.md,
3.md, 4.md) appear in none. One, DrivingRstLowTwiceChangesNothing, states a behaviour the model chose and says so.
-/

open Sys2Proof Sys2Proof.Config Sys2Proof.Machine

/-! ## Encoding (30_encoding.md) -/

/-- Decoding the word of any well-formed instruction gives that instruction (30_encoding.md R86, R87). -/
def Obligations.DecodeEncodeRoundTrip : Prop :=
  ∀ i : Instr, i.wellFormed = true → decode (encode i) = .ok i

/-- Every value that decodes is the one word of the instruction it decodes to (30_encoding.md R87, R90). -/
def Obligations.EncodeDecodeRoundTrip : Prop :=
  ∀ (v : Word) (i : Instr), decode v = .ok i → i.wellFormed = true ∧ encode i = v

/-- R87: "A word w is the command with opcode OP exactly when (w AND mask) = OP and CMD[63:32] = 0"; the operands are the
fields of the word; and the encoder is the or of the shifted fields. -/
def Obligations.CommandIffMaskMatches : Prop :=
  (∀ (v : Word) (o : Op),
    (∃ i, decode v = .ok i ∧ i.op = o) ↔
      v.extractLsb' 0 32 &&& o.shape.mask = BitVec.ofNat 32 o.code ∧ v.extractLsb' 32 32 = 0) ∧
  (∀ (v : Word) (i : Instr), decode v = .ok i → i.fields = Fields.ofWord v.toNat) ∧
  (∀ i : Instr, i.wellFormed = true →
    encode i = (BitVec.ofNat 32 i.fields.op ||| BitVec.ofNat 32 i.fields.rd <<< 8 |||
      BitVec.ofNat 32 i.fields.rs1 <<< 12 ||| BitVec.ofNat 32 i.fields.rs2 <<< 16 |||
      BitVec.ofNat 32 i.fields.imm <<< 20).setWidth 64)

/-- R89: a latched value that meets any of the four conditions raises ILLEGAL (code 1) and executes nothing else. -/
def Obligations.IllegalWordRaisesIllegal : Prop :=
  ∀ (s : State) (v : Word), s.engine = .running v →
    (v.toNat / 2 ^ 32 ≠ 0 ∨
      (∀ o : Op, o.code ≠ v.toNat % 2 ^ 8) ∨
      (∃ o : Op, o.code = v.toNat % 2 ^ 8 ∧
        ((o.shape.usesRd = false ∧ v.toNat / 2 ^ 8 % 16 ≠ 0) ∨ (o.shape.usesRs1 = false ∧ v.toNat / 2 ^ 12 % 16 ≠ 0) ∨
          (o.shape.usesRs2 = false ∧ v.toNat / 2 ^ 16 % 16 ≠ 0) ∨
          (o.shape.usesImm = false ∧ v.toNat / 2 ^ 20 % 4096 ≠ 0))) ∨
      (∃ o : Op, o.code = v.toNat % 2 ^ 8 ∧
        ((o.shape.usesRd = true ∧ 8 ≤ v.toNat / 2 ^ 8 % 16) ∨ (o.shape.usesRs1 = true ∧ 8 ≤ v.toNat / 2 ^ 12 % 16) ∨
          (o.shape.usesRs2 = true ∧ 8 ≤ v.toNat / 2 ^ 16 % 16)))) →
    (s.inputs = [] → ∃ t, step s = .next t ∧ Errored s t 1) ∧
    (∀ rest, s.inputs = .engineTurn :: rest → ∃ t, step s = .next t ∧ Errored { s with inputs := rest } t 1)

/-- Words written out from the spec's tables decode to their instructions: one of each shape, and two illegal ones
(95_test_vectors.md F1, U14, U11, B1, B15, X1, X6). -/
def Obligations.SampleWordsDecode : Prop :=
  decode 0x00010240 = .ok (.fadd 2 0 1) ∧ decode 0x00000114 = .ok (.shl1 1 0) ∧ decode 0x00010013 = .ok (.cmp 0 1) ∧
    decode 0x00000030 = .ok (.reduce 0) ∧ decode 0xfff00131 = .ok (.norm 1 0 4095) ∧
    decode 0x0 = .error .opcode ∧ decode 0xf0010 = .error .register

/-- When the engine's turn is next and the latched value decodes to an instruction, a step is `exec` of that instruction,
with the turn taken from the inputs; with no input pending it is the engine's turn. -/
def Obligations.StepRunsDecodedCommand : Prop :=
  ∀ (s : State) (v : Word) (i : Instr), s.engine = .running v → decode v = .ok i →
    (s.inputs = [] → step s = exec i s) ∧
    (∀ rest, s.inputs = .engineTurn :: rest → step s = exec i { s with inputs := rest })

/-! ## Unsigned family (40_unsigned.md). M = 2^(64*N). -/

/-- R100. ADD: the sum mod M in E[rd], the carry in C; whatever the signs of the sources. -/
def Obligations.AddGivesSumAndCarry : Prop :=
  ∀ rd rs1 rs2 : Reg,
    decode (BitVec.ofNat 64 (0x10 + rd * 2 ^ 8 + rs1 * 2 ^ 12 + rs2 * 2 ^ 16)) = .ok (.add rd rs1 rs2) ∧
    ∀ s : State, ∃ t, exec (.add rd rs1 rs2) s = .next t ∧
      ElemAndCarry s t rd ((s.readE rs1 + s.readE rs2) % 2 ^ (64 * s.n))
        (decide (2 ^ (64 * s.n) ≤ s.readE rs1 + s.readE rs2))

/-- R101. SUB: the difference, wrapped by M when it would be negative, and the borrow in C. -/
def Obligations.SubGivesDifferenceAndBorrow : Prop :=
  ∀ rd rs1 rs2 : Reg,
    decode (BitVec.ofNat 64 (0x11 + rd * 2 ^ 8 + rs1 * 2 ^ 12 + rs2 * 2 ^ 16)) = .ok (.sub rd rs1 rs2) ∧
    ∀ s : State, s.Shaped → ∃ t, exec (.sub rd rs1 rs2) s = .next t ∧
      ElemAndCarry s t rd
        (if s.readE rs1 < s.readE rs2 then s.readE rs1 + 2 ^ (64 * s.n) - s.readE rs2 else s.readE rs1 - s.readE rs2)
        (decide (s.readE rs1 < s.readE rs2))

/-- R102. MULW: the exact product in W, WSGN 0; no element register and no flag is written. -/
def Obligations.MulwGivesExactProduct : Prop :=
  ∀ rs1 rs2 : Reg,
    decode (BitVec.ofNat 64 (0x12 + rs1 * 2 ^ 12 + rs2 * 2 ^ 16)) = .ok (.mulw rs1 rs2) ∧
    ∀ s : State, s.Shaped → ∃ t, exec (.mulw rs1 rs2) s = .next t ∧ OnlyWide s t (s.readE rs1 * s.readE rs2) false

/-- R103. CMP: LT, EQ and GT from the integer order of the raw values; C and every register unchanged. -/
def Obligations.CmpSetsOrderFlags : Prop :=
  ∀ rs1 rs2 : Reg,
    decode (BitVec.ofNat 64 (0x13 + rs1 * 2 ^ 12 + rs2 * 2 ^ 16)) = .ok (.cmp rs1 rs2) ∧
    ∀ s : State, ∃ t, exec (.cmp rs1 rs2) s = .next t ∧
      t.flags = { c := s.flags.c, lt := decide (s.readE rs1 < s.readE rs2), eq := decide (s.readE rs1 = s.readE rs2),
                  gt := decide (s.readE rs2 < s.readE rs1) } ∧
      [t.flags.lt, t.flags.eq, t.flags.gt].count true = 1 ∧ t.e = s.e ∧ t.w = s.w ∧ Completed s t

/-- R104. SHL1: twice the value mod M, the bit shifted out at the top in C. -/
def Obligations.ShlGivesDoubleAndTopBit : Prop :=
  ∀ rd rs1 : Reg,
    decode (BitVec.ofNat 64 (0x14 + rd * 2 ^ 8 + rs1 * 2 ^ 12)) = .ok (.shl1 rd rs1) ∧
    ∀ s : State, ∃ t, exec (.shl1 rd rs1) s = .next t ∧
      ElemAndCarry s t rd (2 * s.readE rs1 % 2 ^ (64 * s.n)) ((s.readE rs1).testBit (64 * s.n - 1))

/-- R105. SHR1: half the value, the bit shifted out at the bottom in C. -/
def Obligations.ShrGivesHalfAndBottomBit : Prop :=
  ∀ rd rs1 : Reg,
    decode (BitVec.ofNat 64 (0x15 + rd * 2 ^ 8 + rs1 * 2 ^ 12)) = .ok (.shr1 rd rs1) ∧
    ∀ s : State, s.Shaped → ∃ t, exec (.shr1 rd rs1) s = .next t ∧
      ElemAndCarry s t rd (s.readE rs1 / 2) ((s.readE rs1).testBit 0)

/-- R107. The exact laws of the unsigned family: no carry, borrow or shifted-out bit is lost, and no product bit. -/
def Obligations.UnsignedResultsAreExact : Prop :=
  ∀ (s t : State) (rd rs1 rs2 : Reg), s.Shaped →
    (exec (.add rd rs1 rs2) s = .next t →
      t.flags.c.toNat * 2 ^ (64 * s.n) + t.readE rd = s.readE rs1 + s.readE rs2) ∧
    (exec (.sub rd rs1 rs2) s = .next t →
      (t.readE rd : Int) - t.flags.c.toNat * 2 ^ (64 * s.n) = s.readE rs1 - s.readE rs2) ∧
    (exec (.mulw rs1 rs2) s = .next t → t.readW = s.readE rs1 * s.readE rs2) ∧
    (exec (.shl1 rd rs1) s = .next t → t.flags.c.toNat * 2 ^ (64 * s.n) + t.readE rd = 2 * s.readE rs1) ∧
    (exec (.shr1 rd rs1) s = .next t → 2 * t.readE rd + t.flags.c.toNat = s.readE rs1) ∧
    (∀ r : Reg, s.readE r < 2 ^ (64 * s.n))

/-! ## Signed family (41_signed.md). The signed value of E[r] is -E[r] under SGN[r] = 1, E[r] otherwise (R120). -/

/-- R121. SADD: the exact signed sum, or RANGE (code 2) when its magnitude does not fit. -/
def Obligations.SaddGivesExactSumOrRange : Prop :=
  ∀ rd rs1 rs2 : Reg,
    decode (BitVec.ofNat 64 (0x20 + rd * 2 ^ 8 + rs1 * 2 ^ 12 + rs2 * 2 ^ 16)) = .ok (.sadd rd rs1 rs2) ∧
    ∀ (s : State) (a b : Int),
      a = (if (s.e.get rs1).sgn then -(s.readE rs1 : Int) else (s.readE rs1 : Int)) →
      b = (if (s.e.get rs2).sgn then -(s.readE rs2 : Int) else (s.readE rs2 : Int)) →
      ((a + b).natAbs < 2 ^ (64 * s.n) → ∃ t, exec (.sadd rd rs1 rs2) s = .next t ∧
        OnlyElem s t rd (a + b).natAbs (decide (a + b < 0))) ∧
      (2 ^ (64 * s.n) ≤ (a + b).natAbs → ∃ t, exec (.sadd rd rs1 rs2) s = .next t ∧ Errored s t 2)

/-- R122. SSUB: the exact signed difference, or RANGE (code 2) when its magnitude does not fit. -/
def Obligations.SsubGivesExactDifferenceOrRange : Prop :=
  ∀ rd rs1 rs2 : Reg,
    decode (BitVec.ofNat 64 (0x21 + rd * 2 ^ 8 + rs1 * 2 ^ 12 + rs2 * 2 ^ 16)) = .ok (.ssub rd rs1 rs2) ∧
    ∀ (s : State) (a b : Int),
      a = (if (s.e.get rs1).sgn then -(s.readE rs1 : Int) else (s.readE rs1 : Int)) →
      b = (if (s.e.get rs2).sgn then -(s.readE rs2 : Int) else (s.readE rs2 : Int)) →
      ((a - b).natAbs < 2 ^ (64 * s.n) → ∃ t, exec (.ssub rd rs1 rs2) s = .next t ∧
        OnlyElem s t rd (a - b).natAbs (decide (a - b < 0))) ∧
      (2 ^ (64 * s.n) ≤ (a - b).natAbs → ∃ t, exec (.ssub rd rs1 rs2) s = .next t ∧ Errored s t 2)

/-- R123. SMULW: the exact signed product in W and WSGN; a zero product gets sign 0. -/
def Obligations.SmulwGivesExactProduct : Prop :=
  ∀ rs1 rs2 : Reg,
    decode (BitVec.ofNat 64 (0x22 + rs1 * 2 ^ 12 + rs2 * 2 ^ 16)) = .ok (.smulw rs1 rs2) ∧
    ∀ (s : State) (a b : Int), s.Shaped →
      a = (if (s.e.get rs1).sgn then -(s.readE rs1 : Int) else (s.readE rs1 : Int)) →
      b = (if (s.e.get rs2).sgn then -(s.readE rs2 : Int) else (s.readE rs2 : Int)) →
      ∃ t, exec (.smulw rs1 rs2) s = .next t ∧ OnlyWide s t (s.readE rs1 * s.readE rs2) (decide (a * b < 0))

/-- R124. SFOLD: the r in [0, P) congruent to the signed value mod P, with sign 0, which the document's loops leave after at
most ceil(M / P) iterations, so after at most one test of their condition more. -/
def Obligations.SfoldGivesResidue : Prop :=
  ∀ rd rs1 : Reg,
    decode (BitVec.ofNat 64 (0x23 + rd * 2 ^ 8 + rs1 * 2 ^ 12)) = .ok (.sfold rd rs1) ∧
    ∀ (s : State) (a : Int), s.inst.variant.sized = true → s.Shaped →
      a = (if (s.e.get rs1).sgn then -(s.readE rs1 : Int) else (s.readE rs1 : Int)) →
      ∃ t, exec (.sfold rd rs1) s = .next t ∧
        ∃ r < s.p, (s.p : Int) ∣ a - r ∧ OnlyElem s t rd r false ∧
          foldLoop s.p ((2 ^ (64 * s.n) + s.p - 1) / s.p + 1) a = some r

/-- R125. SFOLDW: the r in [0, P) congruent to the signed W mod P, with sign 0; W and WSGN unchanged. -/
def Obligations.SfoldwGivesResidue : Prop :=
  ∀ rd : Reg,
    decode (BitVec.ofNat 64 (0x24 + rd * 2 ^ 8)) = .ok (.sfoldw rd) ∧
    ∀ (s : State) (a : Int), s.inst.variant.sized = true →
      a = (if s.w.sgn then -(s.readW : Int) else (s.readW : Int)) →
      ∃ t, exec (.sfoldw rd) s = .next t ∧
        ∃ r < s.p, (s.p : Int) ∣ a - r ∧ OnlyElem s t rd r false

/-! ## Reduction family (42_reduction.md) -/

/-- R141. Barrett's listing computes x mod P for every x below b^(2k), and its final loop runs at most 2 times. -/
def Obligations.BarrettComputesResidue : Prop :=
  ∀ (c : Variant) (x : Nat), c.sized = true → x < limbBase ^ (2 * c.n) →
    (x < c.barrettBound → barrett c x = .ok (x % c.p)) ∧ barrettSteps c x ≤ 2

/-- R143. REDUCE: W mod P, whatever WSGN, or BARRETT_BOUND (code 3); never the error in FAC256. -/
def Obligations.ReduceGivesResidueOrBound : Prop :=
  ∀ rd : Reg,
    decode (BitVec.ofNat 64 (0x30 + rd * 2 ^ 8)) = .ok (.reduce rd) ∧
    ∀ s : State, s.inst.variant.sized = true →
      (s.readW < s.inst.variant.barrettBound → ∃ t, exec (.reduce rd) s = .next t ∧
        OnlyElem s t rd (s.readW % s.p) false) ∧
      (s.inst.variant.barrettBound ≤ s.readW → ∃ t, exec (.reduce rd) s = .next t ∧ Errored s t 3) ∧
      (s.inst.variant = .fac256 → s.Shaped → s.readW < s.inst.variant.barrettBound)

/-- R144, R145. NORM: E[rs1] mod P, whatever the hint; the document's loop ends and leaves that value. -/
def Obligations.NormGivesResidue : Prop :=
  ∀ (rd rs1 : Reg) (hint : Nat), hint < 4096 →
    decode (BitVec.ofNat 64 (0x31 + rd * 2 ^ 8 + rs1 * 2 ^ 12 + hint * 2 ^ 20)) = .ok (.norm rd rs1 hint) ∧
    ∀ s : State, s.inst.variant.sized = true → ∃ t, exec (.norm rd rs1 hint) s = .next t ∧
      OnlyElem s t rd (s.readE rs1 % s.p) false ∧ s.readE rs1 % s.p < s.p ∧
      subtractWhile s.p (s.readE rs1 / s.p + 1) (s.readE rs1) = some (s.readE rs1 % s.p)

/-- R124, R144. The document's loops end, and leave the value that NORM (the residue) and SFOLD and SFOLDW (the floor
residue) write. -/
def Obligations.LoopsLeaveResidues : Prop :=
  ∀ c : Variant, c.sized = true →
    (∀ (v fuel r : Nat), subtractWhile c.p fuel v = some r → r = v % c.p) ∧
    (∀ v : Nat, ∃ fuel, subtractWhile c.p fuel v = some (v % c.p)) ∧
    (∀ (v : Int) (fuel r : Nat), foldLoop c.p fuel v = some r → r = foldResidue c.p v) ∧
    (∀ v : Int, ∃ fuel, foldLoop c.p fuel v = some (foldResidue c.p v))

/-! ## Field family (43_field.md) -/

/-- R160. FADD: the sum with exactly one subtraction of P when it is at least P; RANGE (code 2) when that does not fit. -/
def Obligations.FaddSubtractsOnce : Prop :=
  ∀ rd rs1 rs2 : Reg,
    decode (BitVec.ofNat 64 (0x40 + rd * 2 ^ 8 + rs1 * 2 ^ 12 + rs2 * 2 ^ 16)) = .ok (.fadd rd rs1 rs2) ∧
    ∀ (s : State) (r : Nat),
      r = (if s.p ≤ s.readE rs1 + s.readE rs2 then s.readE rs1 + s.readE rs2 - s.p else s.readE rs1 + s.readE rs2) →
      (r < 2 ^ (64 * s.n) → ∃ t, exec (.fadd rd rs1 rs2) s = .next t ∧ OnlyElem s t rd r false) ∧
      (2 ^ (64 * s.n) ≤ r → ∃ t, exec (.fadd rd rs1 rs2) s = .next t ∧ Errored s t 2)

/-- R161. FSUB: the difference with exactly one addition of P when it is negative; RANGE (code 2) when b > a + P. -/
def Obligations.FsubAddsOnce : Prop :=
  ∀ rd rs1 rs2 : Reg,
    decode (BitVec.ofNat 64 (0x41 + rd * 2 ^ 8 + rs1 * 2 ^ 12 + rs2 * 2 ^ 16)) = .ok (.fsub rd rs1 rs2) ∧
    ∀ s : State, s.inst.variant.sized = true → s.Shaped →
      (s.readE rs2 ≤ s.readE rs1 → ∃ t, exec (.fsub rd rs1 rs2) s = .next t ∧
        OnlyElem s t rd (s.readE rs1 - s.readE rs2) false) ∧
      (s.readE rs1 < s.readE rs2 → s.readE rs2 ≤ s.readE rs1 + s.p → ∃ t, exec (.fsub rd rs1 rs2) s = .next t ∧
        OnlyElem s t rd (s.readE rs1 + s.p - s.readE rs2) false) ∧
      (s.readE rs1 + s.p < s.readE rs2 → ∃ t, exec (.fsub rd rs1 rs2) s = .next t ∧ Errored s t 2)

/-- R162. FNEG: P - a, 0 for a = 0; RANGE (code 2) when a > P. -/
def Obligations.FnegSubtractsFromModulus : Prop :=
  ∀ rd rs1 : Reg,
    decode (BitVec.ofNat 64 (0x42 + rd * 2 ^ 8 + rs1 * 2 ^ 12)) = .ok (.fneg rd rs1) ∧
    ∀ s : State, s.inst.variant.sized = true →
      (s.readE rs1 ≤ s.p → ∃ t, exec (.fneg rd rs1) s = .next t ∧
        OnlyElem s t rd (if s.readE rs1 = 0 then 0 else s.p - s.readE rs1) false) ∧
      (s.p < s.readE rs1 → ∃ t, exec (.fneg rd rs1) s = .next t ∧ Errored s t 2)

/-- R163. FMUL: the product mod P for every pair of operands, or BARRETT_BOUND (code 3), never in FAC256; W unchanged. -/
def Obligations.FmulGivesProductResidue : Prop :=
  ∀ rd rs1 rs2 : Reg,
    decode (BitVec.ofNat 64 (0x43 + rd * 2 ^ 8 + rs1 * 2 ^ 12 + rs2 * 2 ^ 16)) = .ok (.fmul rd rs1 rs2) ∧
    ∀ s : State, s.inst.variant.sized = true →
      (s.readE rs1 * s.readE rs2 < s.inst.variant.barrettBound → ∃ t, exec (.fmul rd rs1 rs2) s = .next t ∧
        OnlyElem s t rd (s.readE rs1 * s.readE rs2 % s.p) false) ∧
      (s.inst.variant.barrettBound ≤ s.readE rs1 * s.readE rs2 → ∃ t, exec (.fmul rd rs1 rs2) s = .next t ∧
        Errored s t 3) ∧
      (s.inst.variant = .fac256 → s.Shaped → s.readE rs1 * s.readE rs2 < s.inst.variant.barrettBound)

/-- R166. PowEngine(a, e) is a^e mod P for 0 <= a < M and 0 <= e < M, 1 when e = 0, and it never raises. -/
def Obligations.PowEngineComputesPower : Prop :=
  ∀ (c : Variant) (a e : Nat), c.sized = true → a < c.radix → e < c.radix → powEngine c a e = .ok (a ^ e % c.p)

/-- R164. FINV: a^(P-2) mod P, for a prime P the unique canonical x with a*x congruent to 1 mod P, or ZERO_INVERSE (code 4)
for every a congruent to 0. -/
def Obligations.FinvGivesInverseOrZeroInverse : Prop :=
  ∀ rd rs1 : Reg,
    decode (BitVec.ofNat 64 (0x44 + rd * 2 ^ 8 + rs1 * 2 ^ 12)) = .ok (.finv rd rs1) ∧
    ∀ (s : State) (r : Nat), s.inst.variant.sized = true → r = s.readE rs1 ^ (s.p - 2) % s.p →
      (s.readE rs1 % s.p ≠ 0 → ∃ t, exec (.finv rd rs1) s = .next t ∧ OnlyElem s t rd r false) ∧
      (s.readE rs1 % s.p ≠ 0 → Nat.Prime s.p →
        ∀ x < s.p, s.readE rs1 * x % s.p = 1 ↔ x = r) ∧
      (s.readE rs1 % s.p = 0 → ∃ t, exec (.finv rd rs1) s = .next t ∧ Errored s t 4)

/-- R165. FDIV: ZERO_INVERSE (code 4) for a divisor congruent to 0, whatever the dividend; else a times b^(P-2) mod P, for a
prime P the quotient mod P (1 for a divided by itself), or BARRETT_BOUND (code 3), never in FAC256. -/
def Obligations.FdivMultipliesByInverse : Prop :=
  ∀ rd rs1 rs2 : Reg,
    decode (BitVec.ofNat 64 (0x45 + rd * 2 ^ 8 + rs1 * 2 ^ 12 + rs2 * 2 ^ 16)) = .ok (.fdiv rd rs1 rs2) ∧
    ∀ (s : State) (y : Nat), s.inst.variant.sized = true → y = s.readE rs2 ^ (s.p - 2) % s.p →
      (s.readE rs2 % s.p = 0 → ∃ t, exec (.fdiv rd rs1 rs2) s = .next t ∧ Errored s t 4) ∧
      (s.readE rs2 % s.p ≠ 0 → s.readE rs1 * y < s.inst.variant.barrettBound →
        ∃ t, exec (.fdiv rd rs1 rs2) s = .next t ∧ OnlyElem s t rd (s.readE rs1 * y % s.p) false) ∧
      (s.readE rs2 % s.p ≠ 0 → Nat.Prime s.p →
        s.readE rs2 * (s.readE rs1 * y % s.p) % s.p = s.readE rs1 % s.p ∧ (rs1 = rs2 → s.readE rs1 * y % s.p = 1)) ∧
      (s.readE rs2 % s.p ≠ 0 → s.inst.variant.barrettBound ≤ s.readE rs1 * y →
        ∃ t, exec (.fdiv rd rs1 rs2) s = .next t ∧ Errored s t 3) ∧
      (s.inst.variant = .fac256 → s.Shaped → s.readE rs1 * y < s.inst.variant.barrettBound)

/-- R168. FPOW: a^e mod P for every exponent, used as given; 1 for e = 0, also for a congruent to 0. -/
def Obligations.FpowGivesPower : Prop :=
  ∀ rd rs1 rs2 : Reg,
    decode (BitVec.ofNat 64 (0x46 + rd * 2 ^ 8 + rs1 * 2 ^ 12 + rs2 * 2 ^ 16)) = .ok (.fpow rd rs1 rs2) ∧
    ∀ s : State, s.inst.variant.sized = true → s.Shaped →
      ∃ t, exec (.fpow rd rs1 rs2) s = .next t ∧
        OnlyElem s t rd (s.readE rs1 ^ s.readE rs2 % s.p) false ∧ (s.readE rs2 = 0 → t.readE rd = 1)

/-- R169. The field properties for canonical operands: addition is commutative and associative, multiplication distributes
over it, a times its inverse is 1, and a divided by itself is 1. -/
def Obligations.FieldAxiomsHold : Prop :=
  ∀ (c : Variant) (x y z : Nat), c.Valid → x < c.p → y < c.p → z < c.p →
    (∃ xy yz, fieldAdd c x y = .ok xy ∧ fieldAdd c y x = .ok xy ∧ fieldAdd c y z = .ok yz ∧
      (∃ sum, fieldAdd c xy z = .ok sum ∧ fieldAdd c x yz = .ok sum) ∧
      ∃ px py prod, fieldMul c x y = .ok px ∧ fieldMul c x z = .ok py ∧ fieldMul c x yz = .ok prod ∧
        fieldAdd c px py = .ok prod) ∧
    (x ≠ 0 → (∃ v, fieldInv c x = .ok v ∧ fieldMul c x v = .ok 1) ∧ fieldDiv c x x = .ok 1)

/-- R169. With canonical operands every command of the field family either writes a canonical result and nothing else, or
is an inversion of 0 and raises ZERO_INVERSE. -/
def Obligations.FieldResultsAreCanonical : Prop :=
  ∀ (s t : State) (i : Instr), s.inst.variant.sized = true →
    i.op ∈ [Op.fadd, .fsub, .fneg, .fmul, .finv, .fdiv, .fpow] →
    (∀ r ∈ sourcesOf i, s.readE r < s.p) → exec i s = .next t →
    (∃ rd v, destOf i = some rd ∧ v < s.p ∧ OnlyElem s t rd v false) ∨
      ((i.op = .finv ∨ i.op = .fdiv) ∧ Errored s t 4 ∧ ∃ r ∈ sourcesOf i, s.readE r = 0)

/-! ## All commands (10_state.md, 60_exceptions.md, 70_reset_and_hazards.md) -/

/-- R250, R216. Every command completes, on every state: BUSY 0, DONE 1, the engine idle. -/
def Obligations.EveryCommandCompletes : Prop :=
  ∀ (i : Instr) (s : State), ∃ t, exec i s = .next t ∧ t.status.busy = false ∧ t.status.done = true ∧ t.engine = .idle

/-- R203. Errors are precise: when the running command ends in an error, STATUS records it, LASTCMD keeps the command, and
every element register, sign, W and flag is as before. -/
def Obligations.ErrorsArePrecise : Prop :=
  ∀ (s t : State) (v : Word), s.engine = .running v → s.status.err = false → engineTurn s = .next t →
    t.status.err = true →
    (∃ c : ErrCode, Errored s t c.code) ∧ t.e = s.e ∧ t.w = s.w ∧ t.flags = s.flags ∧ t.lastcmd = s.lastcmd ∧
      t.status.busy = false ∧ t.status.done = true

/-- R201. Which command raises which code: ILLEGAL 1 the words that are no command, RANGE 2, BARRETT_BOUND 3 (never in
FAC256), ZERO_INVERSE 4; the other commands raise nothing. -/
def Obligations.ErrorCodesByCommand : Prop :=
  ∀ (s t : State) (v : Word), s.inst.variant.sized = true → s.Shaped → s.engine = .running v → s.status.err = false →
    engineTurn s = .next t → t.status.err = true →
    (t.status.errcode = 1 ∧ ∃ r, decode v = .error r) ∨
    ∃ i, decode v = .ok i ∧
      ((t.status.errcode = 2 ∧ i.op ∈ [Op.fadd, .fsub, .fneg, .sadd, .ssub]) ∨
        (t.status.errcode = 3 ∧ i.op ∈ [Op.reduce, .fmul, .fdiv] ∧ s.inst.variant ≠ .fac256) ∨
        (t.status.errcode = 4 ∧ i.op ∈ [Op.finv, .fdiv]))

/-- R23, R24, R25. The frame of every command: no element register but its destination changes; only MULW and SMULW write W;
only ADD, SUB, SHL1 and SHR1 write C and only CMP writes LT, EQ and GT; LASTCMD, the instance and the outside are as before. -/
def Obligations.CommandFrame : Prop :=
  ∀ (i : Instr) (s t : State), exec i s = .next t →
    (∀ r : Reg, destOf i ≠ some r → t.e.get r = s.e.get r) ∧
    (i.op ∉ [Op.mulw, .smulw] → t.w = s.w) ∧
    (i.op ∉ [Op.add, .sub, .shl1, .shr1] → t.flags.c = s.flags.c) ∧
    (i.op ≠ .cmp → t.flags.lt = s.flags.lt ∧ t.flags.eq = s.flags.eq ∧ t.flags.gt = s.flags.gt) ∧
    t.lastcmd = s.lastcmd ∧ t.inst = s.inst ∧ t.rst = s.rst ∧ t.inputs = s.inputs ∧ t.rdata = s.rdata

/-- R24. No command but REDUCE and SFOLDW reads W or WSGN: what any other command does is the same for every W. -/
def Obligations.OtherCommandsIgnoreWide : Prop :=
  ∀ (i : Instr) (s t : State) (w : LimbReg), readsWide i = false → exec i s = .next t →
    ∃ u, exec i { s with w := w } = .next u ∧ u.e = t.e ∧ u.flags = t.flags ∧ u.status = t.status ∧
      (i.op ∈ [Op.mulw, .smulw] → u.w = t.w) ∧ (i.op ∉ [Op.mulw, .smulw] → u.w = w)

/-- R26. After a CMP exactly one of LT, EQ and GT is 1; after reset all three are 0; and no step but a reset (`rst` asserted,
or an input of it while it is asserted) makes all three 0 again, so all three 0 means that no CMP has completed since reset. -/
def Obligations.OneOrderFlagAfterCmp : Prop :=
  (∀ (s t : State) (rs1 rs2 : Reg), exec (.cmp rs1 rs2) s = .next t →
    [t.flags.lt, t.flags.eq, t.flags.gt].count true = 1) ∧
  (∀ c : Inst, [(State.resetOf c).flags.lt, (State.resetOf c).flags.eq, (State.resetOf c).flags.gt].count true = 0) ∧
  (∀ s t : State, step s = .next t → [s.flags.lt, s.flags.eq, s.flags.gt].count true = 1 →
    (∀ level rest, s.inputs = .rstLevel level :: rest → level = false ∧ s.rst = false) → [t.flags.lt, t.flags.eq, t.flags.gt].count true = 1)

/-- Every step keeps the invariant (the registers have their lengths; ERR = 0 implies ERRCODE = 0; BUSY = 1 implies ERR = 0;
the codes are 1 to 4; at most one order flag; BUSY = 1 exactly while the engine runs LASTCMD; nothing runs in reset) and
never changes the instance constants (10_state.md R22, R24, R26, R28, R33). -/
def Obligations.StepKeepsInvariant : Prop :=
  ∀ s t : State, s.Inv → step s = .next t → t.Inv ∧ t.inst = s.inst

/-- The state after reset of every instance meets the invariant. -/
def Obligations.ResetMeetsInvariant : Prop := ∀ c : Inst, (State.resetOf c).Inv

/-- R252. Two instances of one variant that agree on the latched command, E, SGN, W, WSGN and FLAGS complete it with the
same results and the same error code, whatever else differs, and whatever accesses the host of one of them issues while the
command runs. -/
def Obligations.ResultsDependOnAcceptedState : Prop :=
  ∀ (s s' t t' : State) (v : Word) (accesses : List Access), s.Inv → s'.Inv → s.engine = .running v →
    s'.engine = .running v → s.inst.variant = s'.inst.variant → s.e = s'.e → s.w = s'.w → s.flags = s'.flags →
    engineTurn s = .next t → engineTurn (accesses.foldl State.afterAccess s') = .next t' →
    t.e = t'.e ∧ t.w = t'.w ∧ t.flags = t'.flags ∧ t.status = t'.status

/-- What R58, R205 and R250 say of a running command. Whatever accesses the host issues while a command runs, answered or refused, the command completes as
if there had been none: only the data the host last read can differ. -/
def Obligations.AccessesDoNotDisturbCommand : Prop :=
  ∀ (s t : State) (v : Word) (accesses : List Access), s.Inv → s.engine = .running v → engineTurn s = .next t →
    ∃ data, engineTurn (accesses.foldl State.afterAccess s) = .next { t with rdata := data }

/-! ## Reset (70_reset_and_hazards.md) -/

/-- R40. After reset: every limb of E and W unwritten, SGN, WSGN, FLAGS, STATUS and LASTCMD 0, the engine idle, and ID,
CONFIG, P and MU their constants as before. -/
def Obligations.ResetValues : Prop :=
  ∀ c : Inst,
    (∀ i : Reg, ((State.resetOf c).e.get i).limbs.length = c.variant.n ∧
      (∀ x ∈ ((State.resetOf c).e.get i).limbs, x.written = false) ∧ ((State.resetOf c).e.get i).sgn = false) ∧
    (State.resetOf c).w.limbs.length = 2 * c.variant.n ∧
    (∀ x ∈ (State.resetOf c).w.limbs, x.written = false) ∧ (State.resetOf c).w.sgn = false ∧
    (State.resetOf c).flagsWord = 0 ∧ (State.resetOf c).statusWord = 0 ∧ (State.resetOf c).signsWord = 0 ∧
    (State.resetOf c).lastcmd = 0 ∧ (State.resetOf c).engine = .idle ∧
    ∀ (s : State) (r : WinReg), s.inst = c → (r = .id ∨ r = .config ∨ (∃ j, r = .p j) ∨ ∃ j, r = .mu j) →
      (State.resetOf c).readReg r = s.readReg r

/-- R240. Asserting `rst` abandons the running command, discards the engine's hidden state and writes none of its results
(the state after it is the same whatever the engine ran); while it is asserted every access to the window gets a bus error;
when it is deasserted the state holds the reset values; and reset is the only way to abandon a command: no other input but the
engine's own turn ends it. What the model's own fields `inputs` and `rdata` hold is the model's choice (notes/assumptions/7.md,
12.md, 13.md); nothing is said of the cause a bus error carries (10.md). -/
def Obligations.ResetInput : Prop :=
  (∀ (s : State) (rest : List Input), s.inputs = .rstLevel true :: rest →
    ∃ t, step s = .next t ∧ t.rst = true ∧ t.engine = .idle ∧ t.inst = s.inst ∧ t.inputs = rest ∧
      ∀ other : Engine, step { s with engine := other } = .next t) ∧
  (∀ (s : State) (a : Access) (rest : List Input), s.rst = true → s.inputs = .access a :: rest →
    s.inst.facBase ≤ a.addr → a.addr < s.inst.facBase + 4096 →
    ∃ why, step s = .fault (.hostBusError a why) ∧ s.afterAccess a = s) ∧
  (∀ (s : State) (rest : List Input), s.rst = true → s.inputs = .rstLevel false :: rest →
    ∃ t, step s = .next t ∧ t = { State.resetOf s.inst with inputs := rest, rdata := t.rdata }) ∧
  (∀ (s t : State) (x : Input) (rest : List Input) (v : Word), s.Inv → s.engine = .running v →
    s.inputs = x :: rest → x ≠ .engineTurn → x ≠ .rstLevel true → step s = .next t →
    t.engine = .running v ∧ t.status.busy = true)

/-- The model's choice (notes/assumptions/13.md; 60_exceptions.md R215 gives the ground for it): with `rst` deasserted already,
driving it low is no reset and changes nothing. -/
def Obligations.DrivingRstLowTwiceChangesNothing : Prop :=
  ∀ (s : State) (rest : List Input), s.rst = false → s.inputs = .rstLevel false :: rest →
    step s = .next { s with inputs := rest }

/-! ## The register window (20_memory.md) -/

/-- R52. The window map: the slot at every offset is the one of the table whose condition holds, and none elsewhere. -/
def Obligations.WindowMapIsExact : Prop :=
  ∀ (c : Variant) (off : Nat) (r : WinReg), off < 4096 → off % 8 = 0 →
    (slotAt c off = some r ↔ off = r.offset ∧ r.present c = true)

/-- R51, R53. In the window, an access of another width, at an offset that is no multiple of 8, or at an offset that is no
present slot's gets a bus error, and the FAC stays as it is. -/
def Obligations.OddAndReservedAccessesRefused : Prop :=
  ∀ (s : State) (a : Access) (rest : List Input), s.inputs = .access a :: rest →
    s.inst.facBase ≤ a.addr → a.addr < s.inst.facBase + 4096 →
    (a.width ≠ 8 ∨ (a.addr - s.inst.facBase) % 8 ≠ 0 ∨
      ∀ r : WinReg, r.present s.inst.variant = true → a.addr ≠ s.inst.facBase + r.offset) →
    ∃ why, step s = .fault (.hostBusError a why) ∧ s.afterAccess a = s

/-- R54, with the values of R30, R31 and R33. The constants are read at any time, also while the FAC is busy. -/
def Obligations.ConstantReads : Prop :=
  ∀ (s : State) (rest : List Input) (off : Nat) (v : Word), s.rst = false →
    s.inputs = .access (.read (s.inst.facBase + off) 8) :: rest →
    ((off = 0x000 ∧ v = 0x0000000001434146) ∨
      (off = 0x008 ∧ s.inst.variant = .fac256 ∧ v = 0x0000010000082004) ∨
      (off = 0x008 ∧ s.inst.variant ≠ .fac256 ∧ v = 0x000001E001083C08) ∨
      (∃ j < s.n, off = 0x400 + 8 * j ∧ v = BitVec.ofNat 64 (s.p / 2 ^ (64 * j))) ∨
      (∃ j < s.n + 1, off = 0x440 + 8 * j ∧ v = BitVec.ofNat 64 (2 ^ (2 * 64 * s.n) / s.p / 2 ^ (64 * j)))) →
    step s = .next { s with inputs := rest, rdata := some v }

/-- R55. While the FAC is idle the limbs of E and W are read and written one by one: a write changes its limb (now written)
and nothing else, not even the sign. -/
def Obligations.LimbReadsAndWrites : Prop :=
  ∀ (s : State) (rest : List Input) (j : Nat) (x : LimbSlot) (v : Limb), s.rst = false → s.status.busy = false → s.Shaped →
    (∀ i : Reg, j < s.n → (s.e.get i).limbs[j]? = some x →
      (s.inputs = .access (.read (s.inst.facBase + 0x100 + 0x40 * i + 8 * j) 8) :: rest →
        step s = .next { s with inputs := rest, rdata := some x.limb }) ∧
      (s.inputs = .access (.write (s.inst.facBase + 0x100 + 0x40 * i + 8 * j) 8 v) :: rest →
        ∃ t, step s = .next t ∧ (t.e.get i).limbs = (s.e.get i).limbs.set j { limb := v, written := true } ∧
          (t.e.get i).sgn = (s.e.get i).sgn ∧ (∀ r : Reg, r ≠ i → t.e.get r = s.e.get r) ∧
          t = { s with e := t.e, inputs := rest, rdata := none })) ∧
    (j < 2 * s.n → s.w.limbs[j]? = some x →
      (s.inputs = .access (.read (s.inst.facBase + 0x300 + 8 * j) 8) :: rest →
        step s = .next { s with inputs := rest, rdata := some x.limb }) ∧
      (s.inputs = .access (.write (s.inst.facBase + 0x300 + 8 * j) 8 v) :: rest →
        step s = .next { s with w := { limbs := s.w.limbs.set j { limb := v, written := true }, sgn := s.w.sgn },
                                inputs := rest, rdata := none }))

/-- R56, with the fields of R28. STATUS is read at any time, with its fields in their places and 0 elsewhere; a write with bit 2 = 1 clears ERR
and ERRCODE, any other write changes nothing; BUSY and DONE stay. -/
def Obligations.StatusReadAndClear : Prop :=
  ∀ (s : State) (rest : List Input), s.rst = false →
    (s.inputs = .access (.read (s.inst.facBase + 0x018) 8) :: rest →
      ∃ v : Word, step s = .next { s with inputs := rest, rdata := some v } ∧
        v.getLsbD 0 = s.status.busy ∧ v.getLsbD 1 = s.status.done ∧ v.getLsbD 2 = s.status.err ∧
        v.getLsbD 3 = false ∧ v.extractLsb' 4 4 = s.status.errcode ∧ v.extractLsb' 8 56 = 0) ∧
    (∀ v : Word, s.inputs = .access (.write (s.inst.facBase + 0x018) 8 v) :: rest →
      step s = .next { s with
        status := if v.getLsbD 2 then { s.status with err := false, errcode := 0 } else s.status
        inputs := rest, rdata := none })

/-- R57. A write to ID, CONFIG, FLAGS, a P limb or an MU limb gets a bus error and changes nothing. -/
def Obligations.ReadOnlyWritesRefused : Prop :=
  ∀ (s : State) (rest : List Input) (off : Nat) (v : Word),
    s.inputs = .access (.write (s.inst.facBase + off) 8 v) :: rest →
    (off = 0x000 ∨ off = 0x008 ∨ off = 0x020 ∨ (∃ j < s.n, off = 0x400 + 8 * j) ∨
      ∃ j < s.n + 1, off = 0x440 + 8 * j) →
    ∃ why, step s = .fault (.hostBusError (.write (s.inst.facBase + off) 8 v) why) ∧
      s.afterAccess (.write (s.inst.facBase + off) 8 v) = s

/-- R58. While BUSY = 1, reads of ID, CONFIG, CMD, STATUS, a P limb or an MU limb and writes to STATUS are answered, and every
other access to the window gets a bus error and changes nothing. -/
def Obligations.BusyAccesses : Prop :=
  ∀ (s : State) (a : Access) (rest : List Input), s.rst = false → s.status.busy = true → s.inputs = .access a :: rest →
    s.inst.facBase ≤ a.addr → a.addr < s.inst.facBase + 4096 →
    let allowed := (∃ off, a = .read (s.inst.facBase + off) 8 ∧
        (off = 0x000 ∨ off = 0x008 ∨ off = 0x010 ∨ off = 0x018 ∨ (∃ j < s.n, off = 0x400 + 8 * j) ∨
          ∃ j < s.n + 1, off = 0x440 + 8 * j)) ∨
      ∃ v, a = .write (s.inst.facBase + 0x018) 8 v
    (allowed → ∃ t, step s = .next t) ∧
      (¬allowed → ∃ why, step s = .fault (.hostBusError a why) ∧ s.afterAccess a = s)

/-- R60. A write of v to CMD: a bus error while BUSY = 1, ignored while ERR = 1, accepted otherwise. -/
def Obligations.CmdWriteThreeCases : Prop :=
  ∀ (s : State) (v : Word) (rest : List Input), s.rst = false →
    s.inputs = .access (.write (s.inst.facBase + 0x010) 8 v) :: rest →
    (s.status.busy = true →
      step s = .fault (.hostBusError (.write (s.inst.facBase + 0x010) 8 v) .busy) ∧
        s.afterAccess (.write (s.inst.facBase + 0x010) 8 v) = s) ∧
    (s.status.busy = false → s.status.err = true → step s = .next { s with inputs := rest, rdata := none }) ∧
    (s.status.busy = false → s.status.err = false →
      step s = .next { s with
        lastcmd := v, status := { s.status with done := false, busy := true }, engine := .running v
        inputs := rest, rdata := none })

/-- R32. SIGNS: while the FAC is idle a read gives SGN[0..7] and WSGN in bits 8:0 and 0 above, and a write sets them from
bits 8:0 and nothing else; while it is busy both get a bus error. -/
def Obligations.SignsReadAndWrite : Prop :=
  ∀ (s : State) (rest : List Input), s.rst = false →
    (s.status.busy = false → s.inputs = .access (.read (s.inst.facBase + 0x028) 8) :: rest →
      ∃ v : Word, step s = .next { s with inputs := rest, rdata := some v } ∧
        (∀ i : Reg, v.getLsbD i = (s.e.get i).sgn) ∧ v.getLsbD 8 = s.w.sgn ∧ v.extractLsb' 9 55 = 0) ∧
    (∀ v : Word, s.status.busy = false → s.inputs = .access (.write (s.inst.facBase + 0x028) 8 v) :: rest →
      ∃ t, step s = .next t ∧ t = { s with e := t.e, w := t.w, inputs := rest, rdata := none } ∧
        (∀ i : Reg, t.e.get i = { s.e.get i with sgn := v.getLsbD i }) ∧ t.w = { s.w with sgn := v.getLsbD 8 }) ∧
    (∀ a : Access, s.status.busy = true → s.inputs = .access a :: rest → a.addr = s.inst.facBase + 0x028 →
      ∃ why, step s = .fault (.hostBusError a why))

/-- R25, R29. A read of CMD gives LASTCMD at any time; a read of FLAGS while the FAC is idle gives C, LT, EQ and GT in bits
0 to 3 and 0 above. -/
def Obligations.CmdAndFlagsReads : Prop :=
  ∀ (s : State) (rest : List Input), s.rst = false →
    (s.inputs = .access (.read (s.inst.facBase + 0x010) 8) :: rest →
      step s = .next { s with inputs := rest, rdata := some s.lastcmd }) ∧
    (s.status.busy = false → s.inputs = .access (.read (s.inst.facBase + 0x020) 8) :: rest →
      ∃ v : Word, step s = .next { s with inputs := rest, rdata := some v } ∧
        v.getLsbD 0 = s.flags.c ∧ v.getLsbD 1 = s.flags.lt ∧ v.getLsbD 2 = s.flags.eq ∧ v.getLsbD 3 = s.flags.gt ∧
        v.extractLsb' 4 60 = 0)

/-- R206. The return from an error: while ERR = 1 a CMD write is ignored; writing STATUS with bit 2 = 1 clears ERR and
ERRCODE and nothing else, and from then on a CMD write is accepted. -/
def Obligations.ErrorReturn : Prop :=
  ∀ (s : State) (v x : Word) (rest : List Input), s.rst = false → s.status.busy = false → s.status.err = true →
    v.getLsbD 2 = true →
    (s.inputs = .access (.write (s.inst.facBase + 0x010) 8 x) :: rest →
      step s = .next { s with inputs := rest, rdata := none }) ∧
    (s.inputs = .access (.write (s.inst.facBase + 0x018) 8 v) ::
        .access (.write (s.inst.facBase + 0x010) 8 x) :: rest →
      step s = .next { s with
        status := { s.status with err := false, errcode := 0 }
        inputs := .access (.write (s.inst.facBase + 0x010) 8 x) :: rest, rdata := none } ∧
      runSteps 2 s = .next { s with
        status := { busy := true, done := false, err := false, errcode := 0 }
        lastcmd := x, engine := .running x, inputs := rest, rdata := none })

/-! ## Runs (70_reset_and_hazards.md, 30_encoding.md R93) -/

/-- R250, R251. An accepted command completes: after the CMD write and any number of STATUS polls, each of which reads
BUSY = 1, the engine's turn completes it, be the turn given among the inputs or taken when none is left. -/
def Obligations.AcceptedCommandCompletes : Prop :=
  ∀ (s : State) (v : Word) (polls : Nat) (rest : List Input), s.Inv → s.rst = false → s.status.busy = false →
    s.status.err = false →
    (s.inputs = memWrite (addrCmd s.inst) v :: (List.replicate polls (hPoll s.inst) ++ .engineTurn :: rest) ∨
      (s.inputs = memWrite (addrCmd s.inst) v :: List.replicate polls (hPoll s.inst) ∧ rest = [])) →
    (∀ k < polls, ∃ u, runSteps (k + 2) s = .next u ∧ u.rdata = some 1) ∧
    ∃ t, runSteps (polls + 2) s = .next t ∧ t.engine = .idle ∧ t.status.busy = false ∧ t.status.done = true ∧
      t.lastcmd = v ∧ t.inputs = rest

/-- R93, R55. HLOAD stores the value: E[i] holds it, every limb written, and nothing else of the FAC changes. -/
def Obligations.HloadStoresValue : Prop :=
  ∀ (s : State) (i : Reg) (v : Nat) (rest : List Input), s.rst = false → s.status.busy = false → s.Shaped →
    v < 2 ^ (64 * s.n) → s.inputs = hLoad s.inst i v ++ rest →
    ∃ t, runSteps s.n s = .next t ∧ WroteElem s t i v (s.e.get i).sgn ∧
      t = { s with e := t.e, inputs := rest, rdata := none }

/-- R255. The safe command sequence gets no bus error and sees every error: HWAIT (of an idle FAC, or of a running command, with
ERR = 0 after it); any operand stores (HLOAD, HLOADW, HSIGNS); HCMD of any 32-bit word, which is accepted; HWAIT, whose last
poll reads BUSY = 0 and the error fields as they are; then HCLR, which clears the error and changes nothing else, or any reads
of element registers, FLAGS and SIGNS, which change nothing. HWAIT stands with a given number of polls
(notes/assumptions/21.md), and `rdata` is the model's own field (12.md). -/
def Obligations.SafeSequenceGetsNoBusError : Prop :=
  ∀ (s : State) (stores reads : List (List Input)) (word : BitVec 32) (before polls : Nat) (closing : List Input),
    s.Inv → s.rst = false → (∀ u, engineTurn s = .next u → u.status.err = false) →
    (∀ l ∈ stores, (∃ i v, l = hLoad s.inst i v) ∨ (∃ v, l = hLoadW s.inst v) ∨ ∃ v, l = hSigns s.inst v) →
    (∀ l ∈ reads, (∃ i, l = hRead s.inst i) ∨ l = [memRead (addrFlags s.inst)] ∨ l = [memRead (addrSigns s.inst)]) →
    (closing = hClr s.inst ∨ closing = reads.flatten) →
    s.inputs = hWait s.inst before ++ stores.flatten ++ hCmd s.inst word ++ hWait s.inst polls ++ closing →
    ∃ t u, runSteps (s.inputs.length - closing.length) s = .next t ∧ t.inputs = closing ∧
      t.lastcmd = word.setWidth 64 ∧ t.status.busy = false ∧ t.status.done = true ∧
      (∃ v, t.rdata = some v ∧ v.getLsbD 0 = false ∧ v.getLsbD 2 = t.status.err ∧ v.extractLsb' 4 4 = t.status.errcode) ∧
      runSteps s.inputs.length s = .next u ∧
      (closing = hClr s.inst →
        u = { t with status := { t.status with err := false, errcode := 0 }, inputs := [], rdata := none }) ∧
      (closing = reads.flatten → u = { t with inputs := [], rdata := u.rdata })

/-- R216. The outcomes of a step are told apart: no step is refused or stuck; a fault is a host access's, the bus error or the
model's own `outsideWindow` (notes/assumptions/11.md), so a command error is none; and a step that reads an unwritten limb (the
spec's UNWRITTEN, which the model answers, 5.md) is no bus error. -/
def Obligations.StepOutcomes : Prop :=
  ∀ s : State,
    (∀ r, step s ≠ .refused r) ∧
    (∀ f, step s = .fault f → ∃ a rest, s.inputs = .access a :: rest ∧
      ((∃ why, f = .hostBusError a why) ∨
        (f = .outsideWindow a ∧ (a.addr < s.inst.facBase ∨ s.inst.facBase + 4096 ≤ a.addr)))) ∧
    (stepReadsUnwritten s = true → ∃ t, step s = .next t)
end

