-- ==== Sys2Proof/Laws/State.lean ====
section
/-!
SUPPORT. One lemma per field per update of State, so that no proof unfolds a record update; and how the derived readings
(N, M, P, E[i], W, the signed values) see each update.
-/

namespace Sys2Proof.Machine

open Sys2Proof.Config

variable (s : State)

/-! ## writeE -/

@[simp] theorem State.writeE_inst (rd : Reg) (v : Nat) (neg : Bool) : (s.writeE rd v neg).inst = s.inst := rfl
@[simp] theorem State.writeE_e (rd : Reg) (v : Nat) (neg : Bool) : (s.writeE rd v neg).e = s.e.set rd { limbs := limbsOf s.n v, sgn := neg } := rfl
@[simp] theorem State.writeE_w (rd : Reg) (v : Nat) (neg : Bool) : (s.writeE rd v neg).w = s.w := rfl
@[simp] theorem State.writeE_flags (rd : Reg) (v : Nat) (neg : Bool) : (s.writeE rd v neg).flags = s.flags := rfl
@[simp] theorem State.writeE_status (rd : Reg) (v : Nat) (neg : Bool) : (s.writeE rd v neg).status = s.status := rfl
@[simp] theorem State.writeE_lastcmd (rd : Reg) (v : Nat) (neg : Bool) : (s.writeE rd v neg).lastcmd = s.lastcmd := rfl
@[simp] theorem State.writeE_engine (rd : Reg) (v : Nat) (neg : Bool) : (s.writeE rd v neg).engine = s.engine := rfl
@[simp] theorem State.writeE_rst (rd : Reg) (v : Nat) (neg : Bool) : (s.writeE rd v neg).rst = s.rst := rfl
@[simp] theorem State.writeE_inputs (rd : Reg) (v : Nat) (neg : Bool) : (s.writeE rd v neg).inputs = s.inputs := rfl
@[simp] theorem State.writeE_rdata (rd : Reg) (v : Nat) (neg : Bool) : (s.writeE rd v neg).rdata = s.rdata := rfl
@[simp] theorem State.writeE_n (rd : Reg) (v : Nat) (neg : Bool) : (s.writeE rd v neg).n = s.n := rfl
@[simp] theorem State.writeE_radix (rd : Reg) (v : Nat) (neg : Bool) : (s.writeE rd v neg).radix = s.radix := rfl
@[simp] theorem State.writeE_p (rd : Reg) (v : Nat) (neg : Bool) : (s.writeE rd v neg).p = s.p := rfl
@[simp] theorem State.writeE_readW (rd : Reg) (v : Nat) (neg : Bool) : (s.writeE rd v neg).readW = s.readW := rfl
@[simp] theorem State.writeE_swide (rd : Reg) (v : Nat) (neg : Bool) : (s.writeE rd v neg).swide = s.swide := rfl

/-! ## writeW -/

@[simp] theorem State.writeW_inst (v : Nat) (neg : Bool) : (s.writeW v neg).inst = s.inst := rfl
@[simp] theorem State.writeW_e (v : Nat) (neg : Bool) : (s.writeW v neg).e = s.e := rfl
@[simp] theorem State.writeW_w (v : Nat) (neg : Bool) : (s.writeW v neg).w = { limbs := limbsOf (2 * s.n) v, sgn := neg } := rfl
@[simp] theorem State.writeW_flags (v : Nat) (neg : Bool) : (s.writeW v neg).flags = s.flags := rfl
@[simp] theorem State.writeW_status (v : Nat) (neg : Bool) : (s.writeW v neg).status = s.status := rfl
@[simp] theorem State.writeW_lastcmd (v : Nat) (neg : Bool) : (s.writeW v neg).lastcmd = s.lastcmd := rfl
@[simp] theorem State.writeW_engine (v : Nat) (neg : Bool) : (s.writeW v neg).engine = s.engine := rfl
@[simp] theorem State.writeW_rst (v : Nat) (neg : Bool) : (s.writeW v neg).rst = s.rst := rfl
@[simp] theorem State.writeW_inputs (v : Nat) (neg : Bool) : (s.writeW v neg).inputs = s.inputs := rfl
@[simp] theorem State.writeW_rdata (v : Nat) (neg : Bool) : (s.writeW v neg).rdata = s.rdata := rfl
@[simp] theorem State.writeW_n (v : Nat) (neg : Bool) : (s.writeW v neg).n = s.n := rfl
@[simp] theorem State.writeW_radix (v : Nat) (neg : Bool) : (s.writeW v neg).radix = s.radix := rfl
@[simp] theorem State.writeW_p (v : Nat) (neg : Bool) : (s.writeW v neg).p = s.p := rfl
@[simp] theorem State.writeW_readE (v : Nat) (neg : Bool) (i : Reg) : (s.writeW v neg).readE i = s.readE i := rfl
@[simp] theorem State.writeW_svalE (v : Nat) (neg : Bool) (i : Reg) : (s.writeW v neg).svalE i = s.svalE i := rfl

/-! ## setC -/

@[simp] theorem State.setC_inst (c : Bool) : (s.setC c).inst = s.inst := rfl
@[simp] theorem State.setC_e (c : Bool) : (s.setC c).e = s.e := rfl
@[simp] theorem State.setC_w (c : Bool) : (s.setC c).w = s.w := rfl
@[simp] theorem State.setC_flags (c : Bool) : (s.setC c).flags = { s.flags with c := c } := rfl
@[simp] theorem State.setC_status (c : Bool) : (s.setC c).status = s.status := rfl
@[simp] theorem State.setC_lastcmd (c : Bool) : (s.setC c).lastcmd = s.lastcmd := rfl
@[simp] theorem State.setC_engine (c : Bool) : (s.setC c).engine = s.engine := rfl
@[simp] theorem State.setC_rst (c : Bool) : (s.setC c).rst = s.rst := rfl
@[simp] theorem State.setC_inputs (c : Bool) : (s.setC c).inputs = s.inputs := rfl
@[simp] theorem State.setC_rdata (c : Bool) : (s.setC c).rdata = s.rdata := rfl
@[simp] theorem State.setC_n (c : Bool) : (s.setC c).n = s.n := rfl
@[simp] theorem State.setC_radix (c : Bool) : (s.setC c).radix = s.radix := rfl
@[simp] theorem State.setC_p (c : Bool) : (s.setC c).p = s.p := rfl
@[simp] theorem State.setC_readE (c : Bool) (i : Reg) : (s.setC c).readE i = s.readE i := rfl
@[simp] theorem State.setC_svalE (c : Bool) (i : Reg) : (s.setC c).svalE i = s.svalE i := rfl
@[simp] theorem State.setC_readW (c : Bool) : (s.setC c).readW = s.readW := rfl
@[simp] theorem State.setC_swide (c : Bool) : (s.setC c).swide = s.swide := rfl

/-! ## setOrder -/

@[simp] theorem State.setOrder_inst (a b : Nat) : (s.setOrder a b).inst = s.inst := rfl
@[simp] theorem State.setOrder_e (a b : Nat) : (s.setOrder a b).e = s.e := rfl
@[simp] theorem State.setOrder_w (a b : Nat) : (s.setOrder a b).w = s.w := rfl
@[simp] theorem State.setOrder_flags (a b : Nat) : (s.setOrder a b).flags = { s.flags with lt := decide (a < b), eq := decide (a = b), gt := decide (b < a) } := rfl
@[simp] theorem State.setOrder_status (a b : Nat) : (s.setOrder a b).status = s.status := rfl
@[simp] theorem State.setOrder_lastcmd (a b : Nat) : (s.setOrder a b).lastcmd = s.lastcmd := rfl
@[simp] theorem State.setOrder_engine (a b : Nat) : (s.setOrder a b).engine = s.engine := rfl
@[simp] theorem State.setOrder_rst (a b : Nat) : (s.setOrder a b).rst = s.rst := rfl
@[simp] theorem State.setOrder_inputs (a b : Nat) : (s.setOrder a b).inputs = s.inputs := rfl
@[simp] theorem State.setOrder_rdata (a b : Nat) : (s.setOrder a b).rdata = s.rdata := rfl
@[simp] theorem State.setOrder_n (a b : Nat) : (s.setOrder a b).n = s.n := rfl
@[simp] theorem State.setOrder_radix (a b : Nat) : (s.setOrder a b).radix = s.radix := rfl
@[simp] theorem State.setOrder_p (a b : Nat) : (s.setOrder a b).p = s.p := rfl
@[simp] theorem State.setOrder_readE (a b : Nat) (i : Reg) : (s.setOrder a b).readE i = s.readE i := rfl
@[simp] theorem State.setOrder_svalE (a b : Nat) (i : Reg) : (s.setOrder a b).svalE i = s.svalE i := rfl
@[simp] theorem State.setOrder_readW (a b : Nat) : (s.setOrder a b).readW = s.readW := rfl
@[simp] theorem State.setOrder_swide (a b : Nat) : (s.setOrder a b).swide = s.swide := rfl

/-! ## accept -/

@[simp] theorem State.accept_inst (v : Word) : (s.accept v).inst = s.inst := rfl
@[simp] theorem State.accept_e (v : Word) : (s.accept v).e = s.e := rfl
@[simp] theorem State.accept_w (v : Word) : (s.accept v).w = s.w := rfl
@[simp] theorem State.accept_flags (v : Word) : (s.accept v).flags = s.flags := rfl
@[simp] theorem State.accept_status (v : Word) : (s.accept v).status = { s.status with done := false, busy := true } := rfl
@[simp] theorem State.accept_lastcmd (v : Word) : (s.accept v).lastcmd = v := rfl
@[simp] theorem State.accept_engine (v : Word) : (s.accept v).engine = .running v := rfl
@[simp] theorem State.accept_rst (v : Word) : (s.accept v).rst = s.rst := rfl
@[simp] theorem State.accept_inputs (v : Word) : (s.accept v).inputs = s.inputs := rfl
@[simp] theorem State.accept_rdata (v : Word) : (s.accept v).rdata = s.rdata := rfl
@[simp] theorem State.accept_n (v : Word) : (s.accept v).n = s.n := rfl
@[simp] theorem State.accept_radix (v : Word) : (s.accept v).radix = s.radix := rfl
@[simp] theorem State.accept_p (v : Word) : (s.accept v).p = s.p := rfl
@[simp] theorem State.accept_readE (v : Word) (i : Reg) : (s.accept v).readE i = s.readE i := rfl
@[simp] theorem State.accept_svalE (v : Word) (i : Reg) : (s.accept v).svalE i = s.svalE i := rfl
@[simp] theorem State.accept_readW (v : Word) : (s.accept v).readW = s.readW := rfl
@[simp] theorem State.accept_swide (v : Word) : (s.accept v).swide = s.swide := rfl

/-! ## finish -/

@[simp] theorem State.finish_inst : (s.finish).inst = s.inst := rfl
@[simp] theorem State.finish_e : (s.finish).e = s.e := rfl
@[simp] theorem State.finish_w : (s.finish).w = s.w := rfl
@[simp] theorem State.finish_flags : (s.finish).flags = s.flags := rfl
@[simp] theorem State.finish_status : (s.finish).status = { s.status with busy := false, done := true } := rfl
@[simp] theorem State.finish_lastcmd : (s.finish).lastcmd = s.lastcmd := rfl
@[simp] theorem State.finish_engine : (s.finish).engine = .idle := rfl
@[simp] theorem State.finish_rst : (s.finish).rst = s.rst := rfl
@[simp] theorem State.finish_inputs : (s.finish).inputs = s.inputs := rfl
@[simp] theorem State.finish_rdata : (s.finish).rdata = s.rdata := rfl
@[simp] theorem State.finish_n : (s.finish).n = s.n := rfl
@[simp] theorem State.finish_radix : (s.finish).radix = s.radix := rfl
@[simp] theorem State.finish_p : (s.finish).p = s.p := rfl
@[simp] theorem State.finish_readE (i : Reg) : (s.finish).readE i = s.readE i := rfl
@[simp] theorem State.finish_svalE (i : Reg) : (s.finish).svalE i = s.svalE i := rfl
@[simp] theorem State.finish_readW : (s.finish).readW = s.readW := rfl
@[simp] theorem State.finish_swide : (s.finish).swide = s.swide := rfl

/-! ## raiseError -/

@[simp] theorem State.raiseError_inst (c : ErrCode) : (s.raiseError c).inst = s.inst := rfl
@[simp] theorem State.raiseError_e (c : ErrCode) : (s.raiseError c).e = s.e := rfl
@[simp] theorem State.raiseError_w (c : ErrCode) : (s.raiseError c).w = s.w := rfl
@[simp] theorem State.raiseError_flags (c : ErrCode) : (s.raiseError c).flags = s.flags := rfl
@[simp] theorem State.raiseError_status (c : ErrCode) : (s.raiseError c).status = { busy := false, done := true, err := true, errcode := c.code } := rfl
@[simp] theorem State.raiseError_lastcmd (c : ErrCode) : (s.raiseError c).lastcmd = s.lastcmd := rfl
@[simp] theorem State.raiseError_engine (c : ErrCode) : (s.raiseError c).engine = .idle := rfl
@[simp] theorem State.raiseError_rst (c : ErrCode) : (s.raiseError c).rst = s.rst := rfl
@[simp] theorem State.raiseError_inputs (c : ErrCode) : (s.raiseError c).inputs = s.inputs := rfl
@[simp] theorem State.raiseError_rdata (c : ErrCode) : (s.raiseError c).rdata = s.rdata := rfl
@[simp] theorem State.raiseError_n (c : ErrCode) : (s.raiseError c).n = s.n := rfl
@[simp] theorem State.raiseError_radix (c : ErrCode) : (s.raiseError c).radix = s.radix := rfl
@[simp] theorem State.raiseError_p (c : ErrCode) : (s.raiseError c).p = s.p := rfl
@[simp] theorem State.raiseError_readE (c : ErrCode) (i : Reg) : (s.raiseError c).readE i = s.readE i := rfl
@[simp] theorem State.raiseError_svalE (c : ErrCode) (i : Reg) : (s.raiseError c).svalE i = s.svalE i := rfl
@[simp] theorem State.raiseError_readW (c : ErrCode) : (s.raiseError c).readW = s.readW := rfl
@[simp] theorem State.raiseError_swide (c : ErrCode) : (s.raiseError c).swide = s.swide := rfl

/-! ## clearError -/

@[simp] theorem State.clearError_inst : (s.clearError).inst = s.inst := rfl
@[simp] theorem State.clearError_e : (s.clearError).e = s.e := rfl
@[simp] theorem State.clearError_w : (s.clearError).w = s.w := rfl
@[simp] theorem State.clearError_flags : (s.clearError).flags = s.flags := rfl
@[simp] theorem State.clearError_status : (s.clearError).status = { s.status with err := false, errcode := 0 } := rfl
@[simp] theorem State.clearError_lastcmd : (s.clearError).lastcmd = s.lastcmd := rfl
@[simp] theorem State.clearError_engine : (s.clearError).engine = s.engine := rfl
@[simp] theorem State.clearError_rst : (s.clearError).rst = s.rst := rfl
@[simp] theorem State.clearError_inputs : (s.clearError).inputs = s.inputs := rfl
@[simp] theorem State.clearError_rdata : (s.clearError).rdata = s.rdata := rfl
@[simp] theorem State.clearError_n : (s.clearError).n = s.n := rfl
@[simp] theorem State.clearError_radix : (s.clearError).radix = s.radix := rfl
@[simp] theorem State.clearError_p : (s.clearError).p = s.p := rfl
@[simp] theorem State.clearError_readE (i : Reg) : (s.clearError).readE i = s.readE i := rfl
@[simp] theorem State.clearError_svalE (i : Reg) : (s.clearError).svalE i = s.svalE i := rfl
@[simp] theorem State.clearError_readW : (s.clearError).readW = s.readW := rfl
@[simp] theorem State.clearError_swide : (s.clearError).swide = s.swide := rfl

/-! ## enterReset -/

@[simp] theorem State.enterReset_inst (level : Bool) : (s.enterReset level).inst = s.inst := rfl
@[simp] theorem State.enterReset_e (level : Bool) : (s.enterReset level).e = Vector.replicate nreg (LimbReg.reset s.n) := rfl
@[simp] theorem State.enterReset_w (level : Bool) : (s.enterReset level).w = LimbReg.reset (2 * s.n) := rfl
@[simp] theorem State.enterReset_flags (level : Bool) : (s.enterReset level).flags = { c := false, lt := false, eq := false, gt := false } := rfl
@[simp] theorem State.enterReset_status (level : Bool) : (s.enterReset level).status = { busy := false, done := false, err := false, errcode := 0 } := rfl
@[simp] theorem State.enterReset_lastcmd (level : Bool) : (s.enterReset level).lastcmd = 0 := rfl
@[simp] theorem State.enterReset_engine (level : Bool) : (s.enterReset level).engine = .idle := rfl
@[simp] theorem State.enterReset_rst (level : Bool) : (s.enterReset level).rst = level := rfl
@[simp] theorem State.enterReset_inputs (level : Bool) : (s.enterReset level).inputs = s.inputs := rfl
@[simp] theorem State.enterReset_rdata (level : Bool) : (s.enterReset level).rdata = none := rfl
@[simp] theorem State.enterReset_n (level : Bool) : (s.enterReset level).n = s.n := rfl
@[simp] theorem State.enterReset_radix (level : Bool) : (s.enterReset level).radix = s.radix := rfl
@[simp] theorem State.enterReset_p (level : Bool) : (s.enterReset level).p = s.p := rfl

/-! ## setRst: an assertion of `rst`, its end, and an input that finds `rst` deasserted already -/

@[simp] theorem State.setRst_assert : s.setRst true = s.enterReset true := rfl
@[simp] theorem State.setRst_release (h : s.rst = true) : s.setRst false = s.enterReset false := by simp [State.setRst, h]
@[simp] theorem State.setRst_idle (h : s.rst = false) : s.setRst false = s := by simp [State.setRst, h]

/-- A drive of `rst` is a reset, or it leaves the state as it is. -/
theorem State.setRst_cases (level : Bool) :
    ((level = true ∨ s.rst = true) ∧ s.setRst level = s.enterReset level) ∨
      (level = false ∧ s.rst = false ∧ s.setRst level = s) := by
  cases level <;> cases h : s.rst <;> simp [h]

@[simp] theorem State.setRst_inst (level : Bool) : (s.setRst level).inst = s.inst := by
  rcases s.setRst_cases level with ⟨-, h⟩ | ⟨-, -, h⟩ <;> simp [h]
@[simp] theorem State.setRst_rst (level : Bool) : (s.setRst level).rst = level := by
  rcases s.setRst_cases level with ⟨-, h⟩ | ⟨hl, hr, h⟩ <;> simp [*]
@[simp] theorem State.setRst_inputs (level : Bool) : (s.setRst level).inputs = s.inputs := by
  rcases s.setRst_cases level with ⟨-, h⟩ | ⟨-, -, h⟩ <;> simp [h]

/-! ## setSigns -/

@[simp] theorem State.setSigns_inst (v : Word) : (s.setSigns v).inst = s.inst := rfl
@[simp] theorem State.setSigns_e (v : Word) : (s.setSigns v).e = Vector.ofFn fun i => { s.e.get i with sgn := v.getLsbD i.val } := rfl
@[simp] theorem State.setSigns_w (v : Word) : (s.setSigns v).w = { s.w with sgn := v.getLsbD 8 } := rfl
@[simp] theorem State.setSigns_flags (v : Word) : (s.setSigns v).flags = s.flags := rfl
@[simp] theorem State.setSigns_status (v : Word) : (s.setSigns v).status = s.status := rfl
@[simp] theorem State.setSigns_lastcmd (v : Word) : (s.setSigns v).lastcmd = s.lastcmd := rfl
@[simp] theorem State.setSigns_engine (v : Word) : (s.setSigns v).engine = s.engine := rfl
@[simp] theorem State.setSigns_rst (v : Word) : (s.setSigns v).rst = s.rst := rfl
@[simp] theorem State.setSigns_inputs (v : Word) : (s.setSigns v).inputs = s.inputs := rfl
@[simp] theorem State.setSigns_rdata (v : Word) : (s.setSigns v).rdata = s.rdata := rfl
@[simp] theorem State.setSigns_n (v : Word) : (s.setSigns v).n = s.n := rfl
@[simp] theorem State.setSigns_radix (v : Word) : (s.setSigns v).radix = s.radix := rfl
@[simp] theorem State.setSigns_p (v : Word) : (s.setSigns v).p = s.p := rfl

/-! ## setLimbE -/

@[simp] theorem State.setLimbE_inst (i : Reg) (j : Nat) (v : Limb) : (s.setLimbE i j v).inst = s.inst := rfl
@[simp] theorem State.setLimbE_e (i : Reg) (j : Nat) (v : Limb) : (s.setLimbE i j v).e = s.e.set i ((s.e.get i).setLimb j v) := rfl
@[simp] theorem State.setLimbE_w (i : Reg) (j : Nat) (v : Limb) : (s.setLimbE i j v).w = s.w := rfl
@[simp] theorem State.setLimbE_flags (i : Reg) (j : Nat) (v : Limb) : (s.setLimbE i j v).flags = s.flags := rfl
@[simp] theorem State.setLimbE_status (i : Reg) (j : Nat) (v : Limb) : (s.setLimbE i j v).status = s.status := rfl
@[simp] theorem State.setLimbE_lastcmd (i : Reg) (j : Nat) (v : Limb) : (s.setLimbE i j v).lastcmd = s.lastcmd := rfl
@[simp] theorem State.setLimbE_engine (i : Reg) (j : Nat) (v : Limb) : (s.setLimbE i j v).engine = s.engine := rfl
@[simp] theorem State.setLimbE_rst (i : Reg) (j : Nat) (v : Limb) : (s.setLimbE i j v).rst = s.rst := rfl
@[simp] theorem State.setLimbE_inputs (i : Reg) (j : Nat) (v : Limb) : (s.setLimbE i j v).inputs = s.inputs := rfl
@[simp] theorem State.setLimbE_rdata (i : Reg) (j : Nat) (v : Limb) : (s.setLimbE i j v).rdata = s.rdata := rfl
@[simp] theorem State.setLimbE_n (i : Reg) (j : Nat) (v : Limb) : (s.setLimbE i j v).n = s.n := rfl
@[simp] theorem State.setLimbE_radix (i : Reg) (j : Nat) (v : Limb) : (s.setLimbE i j v).radix = s.radix := rfl
@[simp] theorem State.setLimbE_p (i : Reg) (j : Nat) (v : Limb) : (s.setLimbE i j v).p = s.p := rfl
@[simp] theorem State.setLimbE_readW (i : Reg) (j : Nat) (v : Limb) : (s.setLimbE i j v).readW = s.readW := rfl
@[simp] theorem State.setLimbE_swide (i : Reg) (j : Nat) (v : Limb) : (s.setLimbE i j v).swide = s.swide := rfl

/-! ## setLimbW -/

@[simp] theorem State.setLimbW_inst (j : Nat) (v : Limb) : (s.setLimbW j v).inst = s.inst := rfl
@[simp] theorem State.setLimbW_e (j : Nat) (v : Limb) : (s.setLimbW j v).e = s.e := rfl
@[simp] theorem State.setLimbW_w (j : Nat) (v : Limb) : (s.setLimbW j v).w = s.w.setLimb j v := rfl
@[simp] theorem State.setLimbW_flags (j : Nat) (v : Limb) : (s.setLimbW j v).flags = s.flags := rfl
@[simp] theorem State.setLimbW_status (j : Nat) (v : Limb) : (s.setLimbW j v).status = s.status := rfl
@[simp] theorem State.setLimbW_lastcmd (j : Nat) (v : Limb) : (s.setLimbW j v).lastcmd = s.lastcmd := rfl
@[simp] theorem State.setLimbW_engine (j : Nat) (v : Limb) : (s.setLimbW j v).engine = s.engine := rfl
@[simp] theorem State.setLimbW_rst (j : Nat) (v : Limb) : (s.setLimbW j v).rst = s.rst := rfl
@[simp] theorem State.setLimbW_inputs (j : Nat) (v : Limb) : (s.setLimbW j v).inputs = s.inputs := rfl
@[simp] theorem State.setLimbW_rdata (j : Nat) (v : Limb) : (s.setLimbW j v).rdata = s.rdata := rfl
@[simp] theorem State.setLimbW_n (j : Nat) (v : Limb) : (s.setLimbW j v).n = s.n := rfl
@[simp] theorem State.setLimbW_radix (j : Nat) (v : Limb) : (s.setLimbW j v).radix = s.radix := rfl
@[simp] theorem State.setLimbW_p (j : Nat) (v : Limb) : (s.setLimbW j v).p = s.p := rfl
@[simp] theorem State.setLimbW_readE (j : Nat) (v : Limb) (i : Reg) : (s.setLimbW j v).readE i = s.readE i := rfl
@[simp] theorem State.setLimbW_svalE (j : Nat) (v : Limb) (i : Reg) : (s.setLimbW j v).svalE i = s.svalE i := rfl

/-! ## noData -/

@[simp] theorem State.noData_inst : (s.noData).inst = s.inst := rfl
@[simp] theorem State.noData_e : (s.noData).e = s.e := rfl
@[simp] theorem State.noData_w : (s.noData).w = s.w := rfl
@[simp] theorem State.noData_flags : (s.noData).flags = s.flags := rfl
@[simp] theorem State.noData_status : (s.noData).status = s.status := rfl
@[simp] theorem State.noData_lastcmd : (s.noData).lastcmd = s.lastcmd := rfl
@[simp] theorem State.noData_engine : (s.noData).engine = s.engine := rfl
@[simp] theorem State.noData_rst : (s.noData).rst = s.rst := rfl
@[simp] theorem State.noData_inputs : (s.noData).inputs = s.inputs := rfl
@[simp] theorem State.noData_rdata : (s.noData).rdata = none := rfl
@[simp] theorem State.noData_n : (s.noData).n = s.n := rfl
@[simp] theorem State.noData_radix : (s.noData).radix = s.radix := rfl
@[simp] theorem State.noData_p : (s.noData).p = s.p := rfl
@[simp] theorem State.noData_readE (i : Reg) : (s.noData).readE i = s.readE i := rfl
@[simp] theorem State.noData_svalE (i : Reg) : (s.noData).svalE i = s.svalE i := rfl
@[simp] theorem State.noData_readW : (s.noData).readW = s.readW := rfl
@[simp] theorem State.noData_swide : (s.noData).swide = s.swide := rfl

/-! ## Reading a register file after a write -/

/-- Reading the register just written gives what was written; every other register is as before. -/
theorem regs_get_set (v : Vector LimbReg nreg) (i j : Reg) (x : LimbReg) :
    (v.set i x).get j = if i = j then x else v.get j := by
  simp [Vector.get_eq_getElem, Vector.getElem_set, Fin.ext_iff]

@[simp] theorem regs_get_set_self (v : Vector LimbReg nreg) (i : Reg) (x : LimbReg) : (v.set i x).get i = x := by
  simp [regs_get_set]

theorem regs_get_set_of_ne (v : Vector LimbReg nreg) {i j : Reg} (h : j ≠ i) (x : LimbReg) :
    (v.set i x).get j = v.get j := by
  simp [regs_get_set, h.symm]

@[simp] theorem regs_get_ofFn (f : Reg → LimbReg) (i : Reg) : (Vector.ofFn (n := nreg) f).get i = f i := by
  simp [Vector.get_eq_getElem]

@[simp] theorem regs_get_replicate (x : LimbReg) (i : Reg) : (Vector.replicate nreg x).get i = x := by
  simp [Vector.get_eq_getElem]

/-- Two register files that agree on every register are equal. -/
theorem regs_ext {u v : Vector LimbReg nreg} (h : ∀ i : Reg, u.get i = v.get i) : u = v := by
  apply Vector.ext
  intro i hi
  simpa [Vector.get_eq_getElem] using h ⟨i, hi⟩

/-! ## The state after reset -/

@[simp] theorem State.resetOf_inst (c : Inst) : (State.resetOf c).inst = c := rfl
@[simp] theorem State.resetOf_e (c : Inst) : (State.resetOf c).e = Vector.replicate nreg (LimbReg.reset c.variant.n) := rfl
@[simp] theorem State.resetOf_w (c : Inst) : (State.resetOf c).w = LimbReg.reset (2 * c.variant.n) := rfl
@[simp] theorem State.resetOf_flags (c : Inst) : (State.resetOf c).flags = { c := false, lt := false, eq := false, gt := false } := rfl
@[simp] theorem State.resetOf_status (c : Inst) : (State.resetOf c).status = { busy := false, done := false, err := false, errcode := 0 } := rfl
@[simp] theorem State.resetOf_lastcmd (c : Inst) : (State.resetOf c).lastcmd = 0 := rfl
@[simp] theorem State.resetOf_engine (c : Inst) : (State.resetOf c).engine = .idle := rfl
@[simp] theorem State.resetOf_rst (c : Inst) : (State.resetOf c).rst = false := rfl
@[simp] theorem State.resetOf_inputs (c : Inst) : (State.resetOf c).inputs = [] := rfl
@[simp] theorem State.resetOf_rdata (c : Inst) : (State.resetOf c).rdata = none := rfl

end Sys2Proof.Machine
end

