-- ==== Sys2Proof/Laws/Limbs.lean ====
section
/-!
SUPPORT. Limb arrays (00_scope.md R4): the value of the limbs a command stores, the bound on a value, and one limb read
after a write.
-/

namespace Sys2Proof.Machine

open Sys2Proof.Config

@[simp] theorem length_limbsOf (n v : Nat) : (limbsOf n v).length = n := by
  induction n generalizing v with
  | zero => rfl
  | succ n ih => simp [limbsOf, ih]

/-- A command stores every limb of its destination (10_state.md R41). -/
theorem limbsOf_written (n v : Nat) : ∀ x ∈ limbsOf n v, x.written = true := by
  induction n generalizing v with
  | zero => simp [limbsOf]
  | succ n ih => simpa [limbsOf] using ih (v / limbBase)

/-- The limbs stored for v have the value v mod 2^(64n). -/
theorem limbsVal_limbsOf (n v : Nat) : limbsVal (limbsOf n v) = v % 2 ^ (64 * n) := by
  induction n generalizing v with
  | zero => simp [limbsOf, limbsVal, Nat.mod_one]
  | succ n ih =>
    have hpow : (2 : Nat) ^ (64 * (n + 1)) = 2 ^ 64 * 2 ^ (64 * n) := by rw [← Nat.pow_add]; congr 1; omega
    rw [limbsOf, limbsVal, ih, hpow, Nat.mod_mul]
    simp [limbBase]

/-- A value that fits is read back as it is (00_scope.md R11). -/
theorem limbsVal_limbsOf_of_lt {n v : Nat} (h : v < 2 ^ (64 * n)) : limbsVal (limbsOf n v) = v := by
  rw [limbsVal_limbsOf, Nat.mod_eq_of_lt h]

/-- 0 <= val(L) < 2^(64*n) (00_scope.md R4). -/
theorem limbsVal_lt (l : List LimbSlot) : limbsVal l < 2 ^ (64 * l.length) := by
  induction l with
  | nil => simp [limbsVal]
  | cons x rest ih =>
    have hpow : (2 : Nat) ^ (64 * (rest.length + 1)) = 2 ^ 64 * 2 ^ (64 * rest.length) := by
      rw [← Nat.pow_add]; congr 1; omega
    have hx := x.limb.isLt
    rw [limbsVal, List.length_cons, hpow]
    calc x.limb.toNat + limbBase * limbsVal rest
        < 2 ^ 64 + 2 ^ 64 * limbsVal rest := by simpa [limbBase] using hx
      _ = 2 ^ 64 * (limbsVal rest + 1) := by rw [Nat.mul_add, Nat.mul_one, Nat.add_comm]
      _ ≤ 2 ^ 64 * 2 ^ (64 * rest.length) := Nat.mul_le_mul_left _ ih

/-- Limb j of the limbs stored for v is limb j of v (00_scope.md R4). -/
theorem getElem?_limbsOf {n v j : Nat} (h : j < n) :
    (limbsOf n v)[j]? = some { limb := limbOfVal v j, written := true } := by
  induction n generalizing v j with
  | zero => omega
  | succ n ih =>
    cases j with
    | zero => simp [limbsOf, limbOfVal]
    | succ j =>
      simp [limbsOf, ih (v := v / limbBase) (j := j) (by omega), limbOfVal, Nat.div_div_eq_div_mul, ← Nat.pow_succ']

@[simp] theorem LimbReg.setLimb_sgn (r : LimbReg) (j : Nat) (v : Limb) : (r.setLimb j v).sgn = r.sgn := rfl

@[simp] theorem LimbReg.length_setLimb (r : LimbReg) (j : Nat) (v : Limb) :
    (r.setLimb j v).limbs.length = r.limbs.length := by simp [LimbReg.setLimb]

/-- A host write of limb j changes no other limb (20_memory.md R55). -/
theorem LimbReg.limb_setLimb (r : LimbReg) (j k : Nat) (v : Limb) (h : j < r.limbs.length) :
    (r.setLimb j v).limb k = if k = j then v else r.limb k := by
  unfold LimbReg.limb LimbReg.setLimb
  by_cases hk : k = j
  · subst hk; simp [h]
  · simp [List.getD_eq_getElem?_getD, hk, Ne.symm hk]

/-- Registers of the instance's length hold values below M (00_scope.md R4, 10_state.md R22). -/
theorem State.Shaped.readE_lt {s : State} (h : s.Shaped) (i : Reg) : s.readE i < s.radix := by
  have hlt := limbsVal_lt (s.e.get i).limbs
  rw [h.1 i] at hlt
  exact hlt

/-- W of the instance's length holds a value below 2^(128*N) (10_state.md R24). -/
theorem State.Shaped.readW_lt {s : State} (h : s.Shaped) : s.readW < s.inst.variant.wideRadix := by
  have hlt := limbsVal_lt s.w.limbs
  rw [h.2, show 64 * (2 * s.n) = 128 * s.n by omega] at hlt
  exact hlt

/-- The magnitude of a signed value is the register's value (41_signed.md R120). -/
@[simp] theorem LimbReg.natAbs_sval (r : LimbReg) : r.sval.natAbs = r.val := by
  unfold LimbReg.sval
  split <;> simp

/-! ## What a result write leaves behind -/

/-- Everything `writeE` does to the element registers (10_state.md R23, R41). -/
theorem State.writeE_wroteElem (s : State) (rd : Reg) (v : Nat) (neg : Bool) (h : v < s.radix) :
    WroteElem s (s.writeE rd v neg) rd v neg where
  value := by
    simp only [State.readE, State.writeE_e, regs_get_set_self, LimbReg.val]
    exact limbsVal_limbsOf_of_lt h
  sign := by simp
  length := by simp
  written := by simpa [LimbReg.unwritten] using limbsOf_written s.n v
  others r hr := by simp [regs_get_set_of_ne _ hr]

/-- Everything `writeW` does to W (10_state.md R24, R41). -/
theorem State.writeW_wroteWide (s : State) (v : Nat) (neg : Bool) (h : v < s.inst.variant.wideRadix) :
    WroteWide s (s.writeW v neg) v neg where
  value := by
    simp only [State.readW, State.writeW_w, LimbReg.val]
    refine limbsVal_limbsOf_of_lt ?_
    rw [show 64 * (2 * s.n) = 128 * s.n by omega]
    exact h
  sign := rfl
  length := by simp
  written := by simpa [LimbReg.unwritten] using limbsOf_written (2 * s.n) v

end Sys2Proof.Machine
end

