-- ==== Sys2Proof/Laws/Modulus.lean ====
section
/-!
SUPPORT. P of FAC256 is a 256-bit prime (00_scope.md R5), by Lucas's test on the factors of P - 1: so the claims that ask
for a prime modulus speak of FAC256, and `Variant.Valid` holds of it.
-/

namespace Sys2Proof.Config

/-- a^e * acc mod m by repeated squaring, for exponents below 2^fuel. -/
def powMod (m : Nat) : Nat → Nat → Nat → Nat → Nat
  | 0, _, _, acc => acc % m
  | fuel + 1, a, e, acc => powMod m fuel (a * a % m) (e / 2) (if e % 2 = 1 then acc * a % m else acc)

/-- `powMod` computes the residue of acc * a^e. -/
theorem powMod_eq (m fuel a e acc : Nat) (he : e < 2 ^ fuel) : powMod m fuel a e acc = acc * a ^ e % m := by
  induction fuel generalizing a e acc with
  | zero =>
    have h0 : e = 0 := by simpa using he
    simp [powMod, h0]
  | succ fuel ih =>
    have hhalf : e / 2 < 2 ^ fuel := by rw [Nat.div_lt_iff_lt_mul (by decide)]; simpa [Nat.pow_succ] using he
    have hsq : (a * a) ^ (e / 2) = a ^ (2 * (e / 2)) := by rw [← Nat.pow_two, ← Nat.pow_mul]
    have hred : ∀ k, k * (a * a % m) ^ (e / 2) % m = k * a ^ (2 * (e / 2)) % m := by
      intro k
      rw [Nat.mul_mod, ← Nat.pow_mod, ← Nat.mul_mod, hsq]
    rw [powMod, ih _ _ _ hhalf, hred]
    split
    · have hodd : e = 2 * (e / 2) + 1 := by omega
      conv_rhs => rw [hodd, Nat.pow_succ]
      rw [Nat.mul_mod, Nat.mod_mod, ← Nat.mul_mod, Nat.mul_assoc, Nat.mul_comm a]
    · have heven : e = 2 * (e / 2) := by omega
      conv_rhs => rw [heven]

/-- Lucas's primality test on numbers the kernel can check: `qs` are the prime factors of p - 1 with repetitions. -/
theorem prime_of_factors (p a fuel : Nat) (qs : List Nat) (hsize : p - 1 < 2 ^ fuel) (hprime : ∀ q ∈ qs, q.Prime)
    (hprod : qs.prod = p - 1) (hone : powMod p fuel a (p - 1) 1 = 1 % p)
    (hne : ∀ q ∈ qs, powMod p fuel a ((p - 1) / q) 1 ≠ 1 % p) : p.Prime := by
  have cast : ∀ e, e ≤ p - 1 → ((a : ZMod p) ^ e = 1 ↔ powMod p fuel a e 1 = 1 % p) := by
    intro e he
    rw [powMod_eq p fuel a e 1 (by omega), one_mul, ← Nat.cast_pow, ← Nat.cast_one, ZMod.natCast_eq_natCast_iff']
  refine lucas_primality p a ((cast _ le_rfl).mpr hone) ?_
  intro q hq hdvd
  rw [← hprod, (Nat.prime_iff.mp hq).dvd_prod_iff] at hdvd
  obtain ⟨r, hr, hqr⟩ := hdvd
  obtain rfl : q = r := (Nat.prime_dvd_prime_iff_eq hq (hprime r hr)).mp hqr
  exact fun h => hne q hr ((cast _ (Nat.div_le_self _ _)).mp h)

/-- A prime factor of the certificate of P. -/
theorem prime_6743249 : Nat.Prime 6743249 := by
  refine prime_of_factors 6743249 3 23 [2, 2, 2, 2, 421453] (by decide +kernel) ?_ (by decide +kernel) (by decide +kernel)
    (by decide +kernel)
  simp only [List.mem_cons, List.not_mem_nil, or_false]
  rintro q (rfl | rfl | rfl | rfl | rfl)
  · norm_num
  · norm_num
  · norm_num
  · norm_num
  · norm_num

/-- A prime factor of the certificate of P. -/
theorem prime_81767558454161 : Nat.Prime 81767558454161 := by
  refine prime_of_factors 81767558454161 3 47 [2, 2, 2, 2, 5, 151573, 6743249] (by decide +kernel) ?_ (by decide +kernel) (by decide +kernel)
    (by decide +kernel)
  simp only [List.mem_cons, List.not_mem_nil, or_false]
  rintro q (rfl | rfl | rfl | rfl | rfl | rfl | rfl)
  · norm_num
  · norm_num
  · norm_num
  · norm_num
  · norm_num
  · norm_num
  · exact prime_6743249

/-- A prime factor of the certificate of P. -/
theorem prime_1374947842730272154058024133 : Nat.Prime 1374947842730272154058024133 := by
  refine prime_of_factors 1374947842730272154058024133 2 91 [2, 2, 3, 79, 1187, 3593, 4159, 81767558454161] (by decide +kernel) ?_ (by decide +kernel) (by decide +kernel)
    (by decide +kernel)
  simp only [List.mem_cons, List.not_mem_nil, or_false]
  rintro q (rfl | rfl | rfl | rfl | rfl | rfl | rfl | rfl)
  · norm_num
  · norm_num
  · norm_num
  · norm_num
  · norm_num
  · norm_num
  · norm_num
  · exact prime_81767558454161

/-- A prime factor of the certificate of P. -/
theorem prime_5745221 : Nat.Prime 5745221 := by
  refine prime_of_factors 5745221 3 23 [2, 2, 5, 13, 19, 1163] (by decide +kernel) ?_ (by decide +kernel) (by decide +kernel)
    (by decide +kernel)
  simp only [List.mem_cons, List.not_mem_nil, or_false]
  rintro q (rfl | rfl | rfl | rfl | rfl | rfl)
  · norm_num
  · norm_num
  · norm_num
  · norm_num
  · norm_num
  · norm_num

/-- A prime factor of the certificate of P. -/
theorem prime_13954314497177 : Nat.Prime 13954314497177 := by
  refine prime_of_factors 13954314497177 3 44 [2, 2, 2, 73, 4159, 5745221] (by decide +kernel) ?_ (by decide +kernel) (by decide +kernel)
    (by decide +kernel)
  simp only [List.mem_cons, List.not_mem_nil, or_false]
  rintro q (rfl | rfl | rfl | rfl | rfl | rfl)
  · norm_num
  · norm_num
  · norm_num
  · norm_num
  · norm_num
  · exact prime_5745221

/-- A prime factor of the certificate of P. -/
theorem prime_572629249706155373 : Nat.Prime 572629249706155373 := by
  refine prime_of_factors 572629249706155373 2 59 [2, 2, 10259, 13954314497177] (by decide +kernel) ?_ (by decide +kernel) (by decide +kernel)
    (by decide +kernel)
  simp only [List.mem_cons, List.not_mem_nil, or_false]
  rintro q (rfl | rfl | rfl | rfl)
  · norm_num
  · norm_num
  · norm_num
  · exact prime_13954314497177

/-- A prime factor of the certificate of P. -/
theorem prime_1145258499412310747 : Nat.Prime 1145258499412310747 := by
  refine prime_of_factors 1145258499412310747 2 60 [2, 572629249706155373] (by decide +kernel) ?_ (by decide +kernel) (by decide +kernel)
    (by decide +kernel)
  simp only [List.mem_cons, List.not_mem_nil, or_false]
  rintro q (rfl | rfl)
  · norm_num
  · exact prime_572629249706155373

/-- A prime factor of the certificate of P. -/
theorem prime_5332323573263718838033 : Nat.Prime 5332323573263718838033 := by
  refine prime_of_factors 5332323573263718838033 7 73 [2, 2, 2, 2, 3, 97, 1145258499412310747] (by decide +kernel) ?_ (by decide +kernel) (by decide +kernel)
    (by decide +kernel)
  simp only [List.mem_cons, List.not_mem_nil, or_false]
  rintro q (rfl | rfl | rfl | rfl | rfl | rfl | rfl)
  · norm_num
  · norm_num
  · norm_num
  · norm_num
  · norm_num
  · norm_num
  · exact prime_1145258499412310747

/-- P of FAC256 is prime (00_scope.md R5). -/
theorem prime_p256 : Nat.Prime p256 := by
  refine prime_of_factors p256 3 256 [2, 3, 3, 151, 500393, 1868033, 1868033, 1868033, 5332323573263718838033, 1374947842730272154058024133] (by decide +kernel) ?_ (by decide +kernel) (by decide +kernel)
    (by decide +kernel)
  simp only [List.mem_cons, List.not_mem_nil, or_false]
  rintro q (rfl | rfl | rfl | rfl | rfl | rfl | rfl | rfl | rfl | rfl)
  · norm_num
  · norm_num
  · norm_num
  · norm_num
  · norm_num
  · norm_num
  · norm_num
  · norm_num
  · exact prime_5332323573263718838033
  · exact prime_1374947842730272154058024133

/-- FAC256 meets every constraint of 00_scope.md R5. -/
theorem fac256_valid : Variant.fac256.Valid := ⟨rfl, prime_p256⟩

end Sys2Proof.Config
end

