-- ==== Sys2Proof/Laws/Ops.lean ====
section
/-!
SUPPORT. One lemma per shared operation: everything it can answer. Proofs cite these and do not unfold the operations.
-/

namespace Sys2Proof.Machine

open Sys2Proof.Config

variable {s t : State}

/-! ## Ends of a command -/

@[simp] theorem State.finishElem_ok (s : State) (rd : Reg) (v : Nat) :
    s.finishElem rd (.ok v) = .next (s.writeE rd v false).finish := rfl

@[simp] theorem State.finishElem_error (s : State) (rd : Reg) (c : ErrCode) :
    s.finishElem rd (.error c) = .next (s.raiseError c) := rfl

/-- What a signed result becomes: RANGE, or the magnitude and the sign (41_signed.md R120). -/
theorem State.finishSigned_cases (s : State) (rd : Reg) (v : Int) :
    (s.radix ≤ v.natAbs ∧ s.finishSigned rd v = .next (s.raiseError .range)) ∨
    (v.natAbs < s.radix ∧ s.finishSigned rd v = .next (s.writeE rd v.natAbs (decide (v < 0))).finish) := by
  unfold State.finishSigned
  split
  · exact .inl ⟨‹_›, rfl⟩
  · exact .inr ⟨by omega, rfl⟩

/-- Error entry leaves the state of `Errored` (60_exceptions.md R203). -/
theorem State.raiseError_errored (s : State) (c : ErrCode) : Errored s (s.raiseError c) c.code := rfl

/-- Completion leaves the control state of `Completed` (70_reset_and_hazards.md R250). -/
theorem State.finish_completed (s : State) : Completed s s.finish := ⟨rfl, rfl, rfl, rfl, rfl, rfl, rfl⟩

/-- The error codes are 1 to 4 (60_exceptions.md R201). -/
theorem ErrCode.code_range (c : ErrCode) : 1 ≤ c.code.toNat ∧ c.code.toNat ≤ 4 := by
  cases c <;> decide

/-! ## Barrett and PowEngine -/

/-- When Barrett raises, and what it leaves otherwise (42_reduction.md R140). -/
theorem barrett_cases (c : Variant) (x : Nat) :
    (c.barrettBound ≤ x ∧ barrett c x = .error .barrettBound) ∨
    (x < c.barrettBound ∧ barrett c x = .ok (barrettRest c x % c.p)) := by
  unfold barrett
  split
  · exact .inl ⟨‹_›, rfl⟩
  · exact .inr ⟨by omega, rfl⟩

/-- One round of PowEngine raises nothing but BARRETT_BOUND. -/
theorem powRound_error {c : Variant} {base r : Nat} {bit : Bool} {x : ErrCode}
    (h : powRound c base bit r = .error x) : x = .barrettBound := by
  unfold powRound at h
  rcases barrett_cases c (r * r) with ⟨_, hq⟩ | ⟨_, hq⟩ <;> rw [hq] at h
  · cases h; rfl
  · cases bit
    · simp at h
    · rcases barrett_cases c (barrettRest c (r * r) % c.p * base) with ⟨_, hb⟩ | ⟨_, hb⟩ <;> simp [hb] at h
      exact h.symm

/-- PowEngine's loop raises nothing but BARRETT_BOUND. -/
theorem powLoop_error {c : Variant} {base e i r : Nat} {x : ErrCode}
    (h : powLoop c base e i r = .error x) : x = .barrettBound := by
  induction i generalizing r with
  | zero => simp [powLoop] at h
  | succ i ih =>
    unfold powLoop at h
    cases hr : powRound c base (decide (e / 2 ^ i % 2 = 1)) r with
    | error y => rw [hr] at h; cases h; exact powRound_error hr
    | ok q => rw [hr] at h; exact ih h

/-! ## The values of the field commands -/

/-- FADD's value or RANGE (43_field.md R160). -/
theorem fieldAdd_cases (c : Variant) (a b : Nat) :
    (c.radix ≤ (if c.p ≤ a + b then a + b - c.p else a + b) ∧ fieldAdd c a b = .error .range) ∨
    ((if c.p ≤ a + b then a + b - c.p else a + b) < c.radix ∧
      fieldAdd c a b = .ok (if c.p ≤ a + b then a + b - c.p else a + b)) := by
  rcases Nat.lt_or_ge (if c.p ≤ a + b then a + b - c.p else a + b) c.radix with h | h
  · exact .inr ⟨h, if_neg (by omega)⟩
  · exact .inl ⟨h, if_pos h⟩

/-- FSUB's value or RANGE (43_field.md R161). -/
theorem fieldSub_cases (c : Variant) (a b : Nat) :
    (a + c.p < b ∧ fieldSub c a b = .error .range) ∨
    (b ≤ a ∧ fieldSub c a b = .ok (a - b)) ∨ (a < b ∧ b ≤ a + c.p ∧ fieldSub c a b = .ok (a + c.p - b)) := by
  unfold fieldSub
  split
  · exact .inr (.inl ⟨‹_›, rfl⟩)
  · split
    · exact .inl ⟨‹_›, rfl⟩
    · exact .inr (.inr ⟨by omega, by omega, rfl⟩)

/-- FNEG's value or RANGE (43_field.md R162). -/
theorem fieldNeg_cases (c : Variant) (a : Nat) :
    (a = 0 ∧ fieldNeg c a = .ok 0) ∨ (0 < a ∧ a ≤ c.p ∧ fieldNeg c a = .ok (c.p - a)) ∨
    (c.p < a ∧ fieldNeg c a = .error .range) := by
  unfold fieldNeg
  split
  · exact .inl ⟨‹_›, rfl⟩
  · split
    · exact .inr (.inl ⟨by omega, ‹_›, rfl⟩)
    · exact .inr (.inr ⟨by omega, rfl⟩)

/-- When FINV raises ZERO_INVERSE, and what it computes otherwise (43_field.md R164). -/
theorem fieldInv_cases (c : Variant) (a : Nat) :
    (a % c.p = 0 ∧ fieldInv c a = .error .zeroInverse) ∨
    (a % c.p ≠ 0 ∧ fieldInv c a = powEngine c a (c.p - 2)) := by
  unfold fieldInv
  split
  · exact .inl ⟨‹_›, rfl⟩
  · exact .inr ⟨‹_›, rfl⟩

/-- PowEngine raises nothing but BARRETT_BOUND. -/
theorem powEngine_error {c : Variant} {a e : Nat} {x : ErrCode} (h : powEngine c a e = .error x) : x = .barrettBound :=
  powLoop_error h

/-- FINV raises ZERO_INVERSE, or what PowEngine raises (43_field.md R164). -/
theorem fieldInv_error {c : Variant} {a : Nat} {x : ErrCode} (h : fieldInv c a = .error x) :
    x = .zeroInverse ∨ x = .barrettBound := by
  rcases fieldInv_cases c a with ⟨_, hv⟩ | ⟨_, hv⟩ <;> rw [hv] at h
  · cases h; exact .inl rfl
  · exact .inr (powEngine_error h)

/-- A Barrett input at the bound or above is the one error of Barrett (42_reduction.md R140). -/
theorem barrett_error {c : Variant} {v : Nat} {x : ErrCode} (h : barrett c v = .error x) : x = .barrettBound := by
  rcases barrett_cases c v with ⟨_, hb⟩ | ⟨_, hb⟩ <;> rw [hb] at h <;> cases h
  rfl

/-- FDIV raises what its inversion raises, or BARRETT_BOUND (43_field.md R165). -/
theorem fieldDiv_error {c : Variant} {a b : Nat} {x : ErrCode} (h : fieldDiv c a b = .error x) :
    x = .zeroInverse ∨ x = .barrettBound := by
  unfold fieldDiv at h
  cases hv : fieldInv c b with
  | error y => rw [hv] at h; cases h; exact fieldInv_error hv
  | ok y => rw [hv] at h; exact .inr (barrett_error h)

/-! ## The step -/

theorem step_nil (h : s.inputs = []) : step s = engineTurn s := by simp [step, h]

theorem step_cons {x : Input} {rest : List Input} (h : s.inputs = x :: rest) :
    step s = takeInput x { s with inputs := rest } := by simp [step, h]

theorem engineTurn_idle (h : s.engine = .idle) : engineTurn s = .next s := by simp [engineTurn, h]

theorem engineTurn_running {v : Word} (h : s.engine = .running v) : engineTurn s = runLatched v s := by
  simp [engineTurn, h]

theorem runLatched_ok {v : Word} {i : Instr} (h : decode v = .ok i) : runLatched v s = exec i s := by
  simp [runLatched, h]

theorem runLatched_illegal {v : Word} {r : IllegalReason} (h : decode v = .error r) :
    runLatched v s = .next (s.raiseError .illegal) := by
  simp [runLatched, h]

/-! ## Host accesses -/

/-- When an access reaches a slot (20_memory.md R50 to R53, 70_reset_and_hazards.md R240). -/
theorem State.target_ok_iff {a : Access} {r : WinReg} :
    s.target a = .ok r ↔ s.inst.facBase ≤ a.addr ∧ a.addr < s.inst.facBase + windowBytes ∧ s.rst = false ∧
      a.width = 8 ∧ (a.addr - s.inst.facBase) % 8 = 0 ∧ slotAt s.inst.variant (a.addr - s.inst.facBase) = some r := by
  unfold State.target
  by_cases h1 : a.addr < s.inst.facBase ∨ s.inst.facBase + windowBytes ≤ a.addr
  · rw [if_pos h1]
    constructor
    · intro h; cases h
    · rintro ⟨_, _, _⟩; omega
  · rw [if_neg h1]
    cases hr : s.rst
    · by_cases h2 : a.width = 8
      · by_cases h3 : (a.addr - s.inst.facBase) % 8 = 0
        · have h1' := not_or.mp h1
          simp only [not_lt, not_le] at h1'
          cases hs : slotAt s.inst.variant (a.addr - s.inst.facBase) <;> simp [h2, h3, h1']
        · simp [h2, h3]
      · simp [h2]
    · simp

/-- Everything an answered host access can do to the FAC (20_memory.md R54 to R60, R65). -/
theorem hostAccess_next {a : Access} (h : hostAccess a s = .next t) :
    (∃ r, t = { s with rdata := some (s.readReg r) }) ∨ t = s.noData ∨ t = s.clearError.noData ∨
    (s.status.busy = false ∧ s.status.err = false ∧ ∃ v, t = (s.accept v).noData) ∨
    (s.status.busy = false ∧ ((∃ v, t = (s.setSigns v).noData) ∨ (∃ i j v, t = (s.setLimbE i j v).noData) ∨
      ∃ j v, t = (s.setLimbW j v).noData)) := by
  unfold hostAccess at h
  cases hr : s.target a with
  | error f => rw [hr] at h; cases h
  | ok r =>
    rw [hr] at h
    cases a with
    | read addr width =>
      simp only [State.hostRead] at h
      split at h
      · cases h
      · cases h; exact .inl ⟨r, rfl⟩
    | write addr width v =>
      have idle : ∀ {u : State}, s.storeIdle (.write addr width v) u = .next t →
          s.status.busy = false ∧ t = u.noData := by
        intro u hu
        unfold State.storeIdle at hu
        split at hu
        · cases hu
        · cases hu; exact ⟨by simpa using ‹¬s.status.busy = true›, rfl⟩
      cases r with
      | id | config | flags | p | mu => cases h
      | cmd =>
        simp only [State.hostWrite, State.writeCmd] at h
        split at h
        · cases h
        · split at h
          · cases h; exact .inr (.inl rfl)
          · cases h
            exact .inr (.inr (.inr (.inl ⟨by simpa using ‹¬s.status.busy = true›,
              by simpa using ‹¬s.status.err = true›, v, rfl⟩)))
      | status =>
        simp only [State.hostWrite, State.writeStatus] at h
        split at h
        · cases h; exact .inr (.inr (.inl rfl))
        · cases h; exact .inr (.inl rfl)
      | signs =>
        obtain ⟨hb, ht⟩ := idle h
        exact .inr (.inr (.inr (.inr ⟨hb, .inl ⟨v, ht⟩⟩)))
      | e i j =>
        obtain ⟨hb, ht⟩ := idle h
        exact .inr (.inr (.inr (.inr ⟨hb, .inr (.inl ⟨i, j, v, ht⟩)⟩)))
      | w j =>
        obtain ⟨hb, ht⟩ := idle h
        exact .inr (.inr (.inr (.inr ⟨hb, .inr (.inr ⟨j, v, ht⟩)⟩)))

/-! ## The commands -/

/-- Everything a command can do: raise an error, write an element register (and perhaps C), write W, or write LT, EQ and
GT; it always completes (70_reset_and_hazards.md R250). -/
theorem exec_cases (i : Instr) (s : State) :
    (∃ c, c ≠ .illegal ∧ exec i s = .next (s.raiseError c)) ∨
    (∃ rd v neg, destOf i = some rd ∧ exec i s = .next (s.writeE rd v neg).finish) ∨
    (∃ rd v c, destOf i = some rd ∧ (i.op = .add ∨ i.op = .sub ∨ i.op = .shl1 ∨ i.op = .shr1) ∧
      exec i s = .next ((s.writeE rd v false).setC c).finish) ∨
    (∃ v neg, (i.op = .mulw ∨ i.op = .smulw) ∧ exec i s = .next (s.writeW v neg).finish) ∨
    (∃ a b, i.op = .cmp ∧ exec i s = .next (s.setOrder a b).finish) := by
  have elem : ∀ (rd : Reg) (x : Except ErrCode Nat), destOf i = some rd → (∀ c, x = .error c → c ≠ .illegal) →
      exec i s = s.finishElem rd x →
      (∃ c, c ≠ .illegal ∧ exec i s = .next (s.raiseError c)) ∨
      (∃ rd v neg, destOf i = some rd ∧ exec i s = .next (s.writeE rd v neg).finish) := by
    intro rd x hd hx he
    cases x with
    | ok v => exact .inr ⟨rd, v, false, hd, he⟩
    | error c => exact .inl ⟨c, hx c rfl, he⟩
  have signed : ∀ (rd : Reg) (v : Int), destOf i = some rd → exec i s = s.finishSigned rd v →
      (∃ c, c ≠ .illegal ∧ exec i s = .next (s.raiseError c)) ∨
      (∃ rd v neg, destOf i = some rd ∧ exec i s = .next (s.writeE rd v neg).finish) := by
    intro rd v hd he
    rcases s.finishSigned_cases rd v with ⟨_, h⟩ | ⟨_, h⟩
    · exact .inl ⟨.range, by decide, by rw [he, h]⟩
    · exact .inr ⟨rd, _, _, hd, by rw [he, h]⟩
  have two : ∀ {A B C D E : Prop}, A ∨ B → A ∨ B ∨ C ∨ D ∨ E := fun h => h.elim .inl fun h => .inr (.inl h)
  cases i with
  | add rd rs1 rs2 => exact .inr (.inr (.inl ⟨rd, _, _, rfl, .inl rfl, rfl⟩))
  | sub rd rs1 rs2 => exact .inr (.inr (.inl ⟨rd, _, _, rfl, .inr (.inl rfl), rfl⟩))
  | mulw rs1 rs2 => exact .inr (.inr (.inr (.inl ⟨_, _, .inl rfl, rfl⟩)))
  | cmp rs1 rs2 => exact .inr (.inr (.inr (.inr ⟨_, _, rfl, rfl⟩)))
  | shl1 rd rs1 => exact .inr (.inr (.inl ⟨rd, _, _, rfl, .inr (.inr (.inl rfl)), rfl⟩))
  | shr1 rd rs1 => exact .inr (.inr (.inl ⟨rd, _, _, rfl, .inr (.inr (.inr rfl)), rfl⟩))
  | sadd rd rs1 rs2 => exact two (signed rd _ rfl rfl)
  | ssub rd rs1 rs2 => exact two (signed rd _ rfl rfl)
  | smulw rs1 rs2 => exact .inr (.inr (.inr (.inl ⟨_, _, .inr rfl, rfl⟩)))
  | sfold rd rs1 => exact two (elem rd (.ok _) rfl (fun c h => nomatch h) rfl)
  | sfoldw rd => exact two (elem rd (.ok _) rfl (fun c h => nomatch h) rfl)
  | reduce rd => exact two (elem rd _ rfl (fun c h => by rw [barrett_error h]; decide) rfl)
  | norm rd rs1 hint => exact two (elem rd (.ok _) rfl (fun c h => nomatch h) rfl)
  | fadd rd rs1 rs2 =>
    refine two (elem rd _ rfl (fun c h => ?_) rfl)
    rcases fieldAdd_cases s.inst.variant (s.readE rs1) (s.readE rs2) with ⟨_, hv⟩ | ⟨_, hv⟩ <;> rw [hv] at h <;> cases h
    decide
  | fsub rd rs1 rs2 =>
    refine two (elem rd _ rfl (fun c h => ?_) rfl)
    rcases fieldSub_cases s.inst.variant (s.readE rs1) (s.readE rs2) with ⟨_, hv⟩ | ⟨_, hv⟩ | ⟨_, _, hv⟩ <;>
      rw [hv] at h <;> cases h
    decide
  | fneg rd rs1 =>
    refine two (elem rd _ rfl (fun c h => ?_) rfl)
    rcases fieldNeg_cases s.inst.variant (s.readE rs1) with ⟨_, hv⟩ | ⟨_, _, hv⟩ | ⟨_, hv⟩ <;> rw [hv] at h <;> cases h
    decide
  | fmul rd rs1 rs2 => exact two (elem rd _ rfl (fun c h => by rw [barrett_error h]; decide) rfl)
  | finv rd rs1 =>
    refine two (elem rd _ rfl (fun c h => ?_) rfl)
    rcases fieldInv_error h with rfl | rfl <;> decide
  | fdiv rd rs1 rs2 =>
    refine two (elem rd _ rfl (fun c h => ?_) rfl)
    rcases fieldDiv_error h with rfl | rfl <;> decide
  | fpow rd rs1 rs2 => exact two (elem rd _ rfl (fun c h => by rw [powEngine_error h]; decide) rfl)

end Sys2Proof.Machine
end

