-- ==== Sys2Proof/Laws/PerInstr.lean ====
section
/-!
SUPPORT. Statements for all instructions, made per instruction. Family FieldsFit: a well-formed instruction's fields are a
legal command word (30_encoding.md R81, R82, R88).
-/

namespace Sys2Proof.Laws.FieldsFit

/-- The fields of a well-formed instruction fit 32 bits, the fields its shape does not use are 0, and every register field
it uses names a register. -/
def Statement (i : Instr) : Prop :=
  i.wellFormed = true →
    i.fields.toWord < 2 ^ 32 ∧ i.fields.unusedNonzero i.op.shape = false ∧ i.fields.badRegister i.op.shape = false

/-- Three register fields fit. -/
theorem regs_fit (o : Op) (a b d : Reg) (h : Nat) (hh : h < 4096) :
    (⟨o.code, a, b, d, h⟩ : Fields).toWord < 2 ^ 32 := by
  have ho : o.code < 256 := by cases o <;> decide
  have ha := a.isLt
  have hb := b.isLt
  have hd := d.isLt
  simp only [Fields.toWord]
  omega

/-- Register numbers of the model are 0 to 7, so no shape finds a bad one among them. -/
theorem regs_good (sh : Shape) (o : Op) (a b d : Reg) (h : Nat) :
    (⟨o.code, a, b, d, h⟩ : Fields).badRegister sh = false := by
  have ha : ¬8 ≤ (a : Nat) := by omega
  have hb : ¬8 ≤ (b : Nat) := by omega
  have hd : ¬8 ≤ (d : Nat) := by omega
  simp [Fields.badRegister, ha, hb, hd]

theorem add (rd rs1 rs2 : Reg) : Statement (.add rd rs1 rs2) := fun _ =>
  ⟨regs_fit .add rd rs1 rs2 0 (by decide), rfl,
    regs_good _ .add rd rs1 rs2 0⟩

theorem sub (rd rs1 rs2 : Reg) : Statement (.sub rd rs1 rs2) := fun _ =>
  ⟨regs_fit .sub rd rs1 rs2 0 (by decide), rfl,
    regs_good _ .sub rd rs1 rs2 0⟩

theorem mulw (rs1 rs2 : Reg) : Statement (.mulw rs1 rs2) := fun _ =>
  ⟨regs_fit .mulw 0 rs1 rs2 0 (by decide), rfl,
    regs_good _ .mulw 0 rs1 rs2 0⟩

theorem cmp (rs1 rs2 : Reg) : Statement (.cmp rs1 rs2) := fun _ =>
  ⟨regs_fit .cmp 0 rs1 rs2 0 (by decide), rfl,
    regs_good _ .cmp 0 rs1 rs2 0⟩

theorem shl1 (rd rs1 : Reg) : Statement (.shl1 rd rs1) := fun _ =>
  ⟨regs_fit .shl1 rd rs1 0 0 (by decide), rfl,
    regs_good _ .shl1 rd rs1 0 0⟩

theorem shr1 (rd rs1 : Reg) : Statement (.shr1 rd rs1) := fun _ =>
  ⟨regs_fit .shr1 rd rs1 0 0 (by decide), rfl,
    regs_good _ .shr1 rd rs1 0 0⟩

theorem sadd (rd rs1 rs2 : Reg) : Statement (.sadd rd rs1 rs2) := fun _ =>
  ⟨regs_fit .sadd rd rs1 rs2 0 (by decide), rfl,
    regs_good _ .sadd rd rs1 rs2 0⟩

theorem ssub (rd rs1 rs2 : Reg) : Statement (.ssub rd rs1 rs2) := fun _ =>
  ⟨regs_fit .ssub rd rs1 rs2 0 (by decide), rfl,
    regs_good _ .ssub rd rs1 rs2 0⟩

theorem smulw (rs1 rs2 : Reg) : Statement (.smulw rs1 rs2) := fun _ =>
  ⟨regs_fit .smulw 0 rs1 rs2 0 (by decide), rfl,
    regs_good _ .smulw 0 rs1 rs2 0⟩

theorem sfold (rd rs1 : Reg) : Statement (.sfold rd rs1) := fun _ =>
  ⟨regs_fit .sfold rd rs1 0 0 (by decide), rfl,
    regs_good _ .sfold rd rs1 0 0⟩

theorem sfoldw (rd : Reg) : Statement (.sfoldw rd) := fun _ =>
  ⟨regs_fit .sfoldw rd 0 0 0 (by decide), rfl,
    regs_good _ .sfoldw rd 0 0 0⟩

theorem reduce (rd : Reg) : Statement (.reduce rd) := fun _ =>
  ⟨regs_fit .reduce rd 0 0 0 (by decide), rfl,
    regs_good _ .reduce rd 0 0 0⟩

theorem norm (rd rs1 : Reg) (hint : Nat) : Statement (.norm rd rs1 hint) := fun h =>
  ⟨regs_fit .norm rd rs1 0 hint (by simpa [Instr.wellFormed] using h), rfl,
    regs_good _ .norm rd rs1 0 hint⟩

theorem fadd (rd rs1 rs2 : Reg) : Statement (.fadd rd rs1 rs2) := fun _ =>
  ⟨regs_fit .fadd rd rs1 rs2 0 (by decide), rfl,
    regs_good _ .fadd rd rs1 rs2 0⟩

theorem fsub (rd rs1 rs2 : Reg) : Statement (.fsub rd rs1 rs2) := fun _ =>
  ⟨regs_fit .fsub rd rs1 rs2 0 (by decide), rfl,
    regs_good _ .fsub rd rs1 rs2 0⟩

theorem fneg (rd rs1 : Reg) : Statement (.fneg rd rs1) := fun _ =>
  ⟨regs_fit .fneg rd rs1 0 0 (by decide), rfl,
    regs_good _ .fneg rd rs1 0 0⟩

theorem fmul (rd rs1 rs2 : Reg) : Statement (.fmul rd rs1 rs2) := fun _ =>
  ⟨regs_fit .fmul rd rs1 rs2 0 (by decide), rfl,
    regs_good _ .fmul rd rs1 rs2 0⟩

theorem finv (rd rs1 : Reg) : Statement (.finv rd rs1) := fun _ =>
  ⟨regs_fit .finv rd rs1 0 0 (by decide), rfl,
    regs_good _ .finv rd rs1 0 0⟩

theorem fdiv (rd rs1 rs2 : Reg) : Statement (.fdiv rd rs1 rs2) := fun _ =>
  ⟨regs_fit .fdiv rd rs1 rs2 0 (by decide), rfl,
    regs_good _ .fdiv rd rs1 rs2 0⟩

theorem fpow (rd rs1 rs2 : Reg) : Statement (.fpow rd rs1 rs2) := fun _ =>
  ⟨regs_fit .fpow rd rs1 rs2 0 (by decide), rfl,
    regs_good _ .fpow rd rs1 rs2 0⟩

end Sys2Proof.Laws.FieldsFit
end

