-- ==== Sys2Proof/Laws/Window.lean ====
section
/-!
SUPPORT. Host accesses and runs: what an access of a present slot does in a step, what a refused access does, and how runs of
several steps compose.
-/

namespace Sys2Proof.Machine

open Sys2Proof.Config

variable {s t : State} {a : Access} {rest : List Input}

/-- N is 4 or 8 (00_scope.md R5, R6). -/
theorem n_cases (c : Variant) : c.n = 4 ∨ c.n = 8 := by cases c <;> simp [Variant.n]

/-! ## One access -/

/-- A step that reads a slot: the data come back and nothing else changes (20_memory.md R54 to R56, R65). -/
theorem step_read {addr : Nat} {r : WinReg} (hi : s.inputs = .access (.read addr 8) :: rest)
    (ht : s.target (.read addr 8) = .ok r) (hb : s.status.busy = false ∨ r.readableBusy = true) :
    step s = .next { s with inputs := rest, rdata := some (s.readReg r) } := by
  rw [step_cons hi]
  simp only [takeInput, hostAccess]
  rw [show State.target { s with inputs := rest } (.read addr 8) = .ok r from ht]
  simp only [State.hostRead]
  rw [if_neg (by rcases hb with hb | hb <;> simp [hb])]
  rfl

/-- A step that writes a slot is that slot's write. -/
theorem step_write {addr : Nat} {v : Word} {r : WinReg} (hi : s.inputs = .access (.write addr 8 v) :: rest)
    (ht : s.target (.write addr 8 v) = .ok r) :
    step s = State.hostWrite { s with inputs := rest } (.write addr 8 v) v r := by
  rw [step_cons hi]
  simp only [takeInput, hostAccess]
  rw [show State.target { s with inputs := rest } (.write addr 8 v) = .ok r from ht]

/-- Whether an access is refused does not depend on what is pending, and a refused access leaves the FAC as it is
(20_memory.md R59). -/
theorem State.afterAccess_of_fault {f : Fault} (h : hostAccess a { s with inputs := rest } = .fault f) :
    s.afterAccess a = s := by
  have keep : ∀ u : State, (∃ r, hostAccess a u = .fault r) → u.afterAccess a = u := by
    rintro u ⟨r, hr⟩
    unfold State.afterAccess
    rw [hr]
  apply keep
  unfold hostAccess at h ⊢
  rw [show State.target { s with inputs := rest } a = s.target a from rfl] at h
  cases hh : s.target a with
  | error f => exact ⟨f, rfl⟩
  | ok r =>
    rw [hh] at h
    cases a with
    | read addr width =>
      simp only [State.hostRead] at h ⊢
      split at h
      · rw [if_pos (by assumption)]; exact ⟨_, rfl⟩
      · cases h
    | write addr width v =>
      cases r <;> simp only [State.hostWrite, State.storeIdle, State.writeCmd, State.writeStatus] at h ⊢
      case id | config | flags | p | mu => exact ⟨_, rfl⟩
      case signs | e | w =>
        split at h
        · rw [if_pos (by assumption)]; exact ⟨_, rfl⟩
        · cases h
      case cmd =>
        split at h
        · rw [if_pos (by assumption)]; exact ⟨_, rfl⟩
        · split at h <;> cases h
      case status => split at h <;> cases h

/-- An access is answered or faults: no access is a refusal of the model. -/
theorem hostAccess_ne_refused (a : Access) (s : State) (r : Refusal) : hostAccess a s ≠ .refused r := by
  intro h
  unfold hostAccess at h
  split at h
  · cases h
  · split at h
    · unfold State.hostRead at h
      split at h <;> cases h
    · unfold State.hostWrite State.storeIdle State.writeCmd State.writeStatus at h
      repeat' split at h
      all_goals cases h

/-- In the window the only fault is the bus error (20_memory.md R59). -/
theorem hostAccess_fault {f : Fault} (h : hostAccess a s = .fault f) (h1 : s.inst.facBase ≤ a.addr)
    (h2 : a.addr < s.inst.facBase + 4096) : ∃ why, f = .hostBusError a why := by
  unfold hostAccess at h
  split at h
  · rename_i hh
    cases h
    unfold State.target windowBytes at hh
    repeat' split at hh
    all_goals cases hh
    · omega
    all_goals exact ⟨_, rfl⟩
  · split at h
    · unfold State.hostRead at h
      split at h <;> cases h
      exact ⟨_, rfl⟩
    · unfold State.hostWrite State.storeIdle State.writeCmd State.writeStatus at h
      repeat' split at h
      all_goals cases h
      all_goals exact ⟨_, rfl⟩

/-- A step with an access to the window pending: it is answered, or it is a bus error that leaves the FAC as it is. -/
theorem step_access_cases (hi : s.inputs = .access a :: rest) (h1 : s.inst.facBase ≤ a.addr)
    (h2 : a.addr < s.inst.facBase + 4096) :
    (∃ t, step s = .next t) ∨ ∃ why, step s = .fault (.hostBusError a why) ∧ s.afterAccess a = s := by
  rw [step_cons hi]
  simp only [takeInput]
  cases h : hostAccess a { s with inputs := rest } with
  | next t => exact .inl ⟨t, rfl⟩
  | refused r => exact absurd h (hostAccess_ne_refused _ _ _)
  | fault f =>
    obtain ⟨why, rfl⟩ := hostAccess_fault h h1 h2
    exact .inr ⟨why, rfl, State.afterAccess_of_fault h⟩

/-! ## Runs -/

@[simp] theorem runSteps_zero (s : State) : runSteps 0 s = .next s := rfl

theorem runSteps_succ {k : Nat} (h : step s = .next t) : runSteps (k + 1) s = runSteps k t := by simp [runSteps, h]

/-- A run goes on from where its first part stopped. -/
theorem runSteps_add (j k : Nat) (s t : State) (h : runSteps j s = .next t) : runSteps (j + k) s = runSteps k t := by
  induction j generalizing s with
  | zero => cases h; simp
  | succ j ih =>
    rw [show j + 1 + k = (j + k) + 1 by omega]
    rw [runSteps] at h ⊢
    cases hs : step s with
    | next u => rw [hs] at h; exact ih u h
    | fault f => rw [hs] at h; cases h
    | refused f => rw [hs] at h; cases h

end Sys2Proof.Machine
end

