-- ==== Sys2Proof/Tests/Slice0.lean ====
section
/-!
SUPPORT. Small tests: every expected value is a vector of 95_test_vectors.md (its id stands in the docstring) or is worked
out by hand from the rule named. After them, for every statement with hypotheses, a witness that meets them.
-/

-- The tests are elaborated one after another: all at once, in one text with the package, they ask for more threads (each
-- with its own stack) than the check's memory limit allows.
set_option Elab.async false

namespace Sys2Proof.Tests

open Sys2Proof.Config Sys2Proof.Machine

/-! ## Helpers -/

/-- M = 2^256 of FAC256. -/
abbrev M : Nat := 2 ^ 256

/-- P of FAC256. -/
abbrev P : Nat := p256

/-- The test-only FAC480 of 92_eei_decisions.md D44. -/
def instT : Inst := { variant := .fac480 (2 ^ 480 - 47) (2 ^ 960), facBase := 0x40000 }

/-- An idle instance with these element registers (number, value, sign) and this W (value, sign). -/
def load (c : Inst) (es : List (Reg × Nat × Bool)) (w : Nat × Bool) : State :=
  (es.foldl (fun s x => s.writeE x.1 x.2.1 x.2.2) (State.resetOf c)).writeW w.1 w.2

/-- An idle FAC256 with these element registers and W = 0. -/
def regs (es : List (Reg × Nat × Bool)) : State := load Inst.default es (0, false)

/-- FAC256 with E0 = a and E1 = b. -/
def two (a b : Nat) : State := regs [(0, a, false), (1, b, false)]

/-- FAC256 with this W. -/
def wide (v : Nat) (neg : Bool) : State := load Inst.default [] (v, neg)

/-- The test-only FAC480 with E0 = a, E1 = b and W = w. -/
def twoT (a b w : Nat) : State := load instT [(0, a, false), (1, b, false)] (w, false)

/-- The state with these inputs pending. -/
def pending (s : State) (xs : List Input) : State := { s with inputs := xs }

/-- The step answers a next state with this property. -/
def answers (r : Result) (q : State → Bool) : Bool :=
  match r with
  | .next t => q t
  | .fault _ => false
  | .refused _ => false

/-- The command word, run as the next step, leaves STATUS and a state with this property. -/
def runs (s : State) (word status : Nat) (q : State → Bool) : Bool :=
  answers (step (s.withFetchWord 32 word)) fun t => t.statusWord == BitVec.ofNat 64 status && q t

/-- E[r] holds v with sign `neg`. -/
def holds (r : Reg) (v : Nat) (neg : Bool) (t : State) : Bool := t.readE r == v && (t.e.get r).sgn == neg

/-- W holds v with sign `neg`. -/
def holdsW (v : Nat) (neg : Bool) (t : State) : Bool := t.readW == v && t.w.sgn == neg

/-- No register and no flag differs from `s`. -/
def kept (s t : State) : Bool := t.e == s.e && t.w == s.w && t.flags == s.flags

/-! ## WellFormed smoke test -/

/-- The one check of WellFormed refuses a hint that does not fit 12 bits (30_encoding.md R83). -/
theorem test_wellFormed_refuses_wide_hint : Instr.wellFormed (.norm 0 0 4096) = false := by decide

/-! ## Decoding: one word of every command, written out from 30_encoding.md R86 and R87 -/

/-- 0x10 | 2 << 8 | 0 << 12 | 1 << 16 and so on: U1, U5, U10, U11, U14, U17. -/
theorem test_decode_unsigned :
    decode 0x00010210 = .ok (.add 2 0 1) ∧ decode 0x00010211 = .ok (.sub 2 0 1) ∧ decode 0x00010012 = .ok (.mulw 0 1) ∧
      decode 0x00010013 = .ok (.cmp 0 1) ∧ decode 0x00000114 = .ok (.shl1 1 0) ∧ decode 0x00000115 = .ok (.shr1 1 0) := by
  decide

/-- S1, S7, S11, S14, S19. -/
theorem test_decode_signed :
    decode 0x00010220 = .ok (.sadd 2 0 1) ∧ decode 0x00001221 = .ok (.ssub 2 1 0) ∧ decode 0x00010022 = .ok (.smulw 0 1) ∧
      decode 0x00002323 = .ok (.sfold 3 2) ∧ decode 0x00000424 = .ok (.sfoldw 4) := by decide

/-- REDUCE e7 by R87, B13, B15. -/
theorem test_decode_reduction :
    decode 0x00000730 = .ok (.reduce 7) ∧ decode 0x00100131 = .ok (.norm 1 0 1) ∧
      decode 0xfff00131 = .ok (.norm 1 0 4095) := by decide

/-- F1, F6, F10, F14, F18, F25, F30, and FPOW with every register field at 7 by R87. -/
theorem test_decode_field :
    decode 0x00010240 = .ok (.fadd 2 0 1) ∧ decode 0x00010241 = .ok (.fsub 2 0 1) ∧ decode 0x00000142 = .ok (.fneg 1 0) ∧
      decode 0x00010243 = .ok (.fmul 2 0 1) ∧ decode 0x00000144 = .ok (.finv 1 0) ∧ decode 0x00010245 = .ok (.fdiv 2 0 1) ∧
      decode 0x00010246 = .ok (.fpow 2 0 1) ∧ decode 0x00077746 = .ok (.fpow 7 7 7) := by decide

/-- X1 to X6: the reserved opcodes, CMD[63:32] = 1, and register fields of 8 and 15. -/
theorem test_decode_refuses :
    decode 0x0 = .error .opcode ∧ decode 0x16 = .error .opcode ∧ decode 0xff = .error .opcode ∧
      decode 0x0000000100000010 = .error .highBits ∧ decode 0x810 = .error .register ∧
      decode 0xf0010 = .error .register := by decide

/-- X7 to X12: fields the shape does not use, FINV with RS2 = 1, and NORM with RS1 = 8. -/
theorem test_decode_refuses_fields :
    decode 0x112 = .error .unusedField ∧ decode 0x10031 = .error .unusedField ∧ decode 0x1030 = .error .unusedField ∧
      decode 0x100010 = .error .unusedField ∧ decode 0x10144 = .error .unusedField ∧
      decode 0x508131 = .error .register := by decide

/-- The encoder's words: F1, B15, S19, U13. -/
theorem test_encode :
    encode (.fadd 2 0 1) = 0x00010240 ∧ encode (.norm 1 0 4095) = 0xfff00131 ∧ encode (.sfoldw 4) = 0x00000424 ∧
      encode (.cmp 3 3) = 0x00033013 := by decide

/-- The host's two questions, on U1's word and on X1's. -/
theorem test_decodeTableWord :
    decodeTableWord 32 0x00010210 = some (.add 2 0 1) ∧ decodeTableWord 32 0 = none := by decide

/-- The bytes of a CMD write, lane 0 first (20_memory.md R61): F1's word. -/
theorem test_decodeLanes : decodeLanes [0x40, 0x02, 0x01, 0x00] = .ok (.fadd 2 0 1) := by decide

/-! ## One step of every command: the vectors of 95_test_vectors.md -/

/-- U1. -/
theorem test_add_wraps : runs (two (M - 1) 1) 0x00010210 0x02 (fun t => holds 2 0 false t && t.flags.c) = true := by
  decide +kernel

/-- U20: the sign of a source is ignored, the destination's becomes 0. -/
theorem test_add_ignores_signs :
    runs (regs [(0, 5, true), (1, 3, false)]) 0x00010210 0x02 (fun t => holds 2 8 false t && !t.flags.c) = true := by
  decide +kernel

/-- U5. -/
theorem test_sub_borrows : runs (two 0 1) 0x00010211 0x02 (fun t => holds 2 (M - 1) false t && t.flags.c) = true := by
  decide +kernel

/-- U7. -/
theorem test_sub_order : runs (two P (P - 1)) 0x00010211 0x02 (fun t => holds 2 1 false t && !t.flags.c) = true := by
  decide +kernel

/-- U8. -/
theorem test_mulw_exact : runs (two (M - 1) 0) 0x00000012 0x02 (holdsW ((M - 1) ^ 2) false) = true := by decide +kernel

/-- U11. -/
theorem test_cmp_lt :
    runs (two P (P + 1)) 0x00010013 0x02 (fun t => t.flags.lt && !t.flags.eq && !t.flags.gt && !t.flags.c) = true := by
  decide +kernel

/-- U13. -/
theorem test_cmp_eq :
    runs (regs [(3, 7, false)]) 0x00033013 0x02 (fun t => !t.flags.lt && t.flags.eq && !t.flags.gt) = true := by
  decide +kernel

/-- U14. -/
theorem test_shl1_top : runs (two (2 ^ 255) 0) 0x00000114 0x02 (fun t => holds 1 0 false t && t.flags.c) = true := by
  decide +kernel

/-- U16: the carry crosses from limb 0 to limb 1. -/
theorem test_shl1_limbs :
    runs (two (2 ^ 63) 0) 0x00000114 0x02 (fun t => (t.e.get 1).limb 0 == 0 && (t.e.get 1).limb 1 == 1 && !t.flags.c)
      = true := by decide +kernel

/-- U18. -/
theorem test_shr1_bottom :
    runs (two (M - 1) 0) 0x00000115 0x02 (fun t => holds 1 (2 ^ 255 - 1) false t && t.flags.c) = true := by decide +kernel

/-- S1. -/
theorem test_sadd_negative : runs (regs [(0, 5, true), (1, 3, false)]) 0x00010220 0x02 (holds 2 2 true) = true := by
  decide +kernel

/-- S5: the error leaves every register and flag. -/
theorem test_sadd_range :
    runs (regs [(0, M - 1, true), (1, 1, true)]) 0x00010220 0x26 (kept (regs [(0, M - 1, true), (1, 1, true)])) = true := by
  decide +kernel

/-- S7. -/
theorem test_ssub_order : runs (regs [(0, 5, true), (1, 3, false)]) 0x00001221 0x02 (holds 2 8 false) = true := by
  decide +kernel

/-- S10: zero gets sign 0. -/
theorem test_ssub_zero : runs (regs [(0, 4, true)]) 0x00000021 0x02 (holds 0 0 false) = true := by decide +kernel

/-- S11. -/
theorem test_smulw_negative : runs (regs [(0, 5, true), (1, 3, false)]) 0x00010022 0x02 (holdsW 15 true) = true := by
  decide +kernel

/-- S12. -/
theorem test_smulw_zero : runs (regs [(0, 0, false), (1, 7, true)]) 0x00010022 0x02 (holdsW 0 false) = true := by
  decide +kernel

/-- S14. -/
theorem test_sfold_negative : runs (regs [(2, 2, true)]) 0x00002323 0x02 (holds 3 (P - 2) false) = true := by
  decide +kernel

/-- S15. -/
theorem test_sfold_minus_p : runs (regs [(2, P, true)]) 0x00002323 0x02 (holds 3 0 false) = true := by decide +kernel

/-- S19. -/
theorem test_sfoldw_negative :
    runs (wide 15 true) 0x00000424 0x02
      (holds 4 0x8fb501e34aa387f9aa6fecb86184dc21ee5b88d120b5b59e185cac6c5e089658 false) = true := by decide +kernel

/-- S22. -/
theorem test_sfoldw_all_ones :
    runs (wide (2 ^ 512 - 1) false) 0x00000424 0x02
      (holds 4 0x7c36e0e62c2380b70c6dc37b80fb1651409ed151b2efb0c29c21c3ff7e444f55 false) = true := by decide +kernel

/-- B7: r1 - r2 is negative, b^(k+1) is added. -/
theorem test_reduce_negative_branch :
    runs (wide (2 ^ 320) false) 0x00000030 0x02
      (holds 0 0x10eff8ee1a901b75df0aca72240dc22a0576c1661e78054a256903042d0e2f87 false) = true := by decide +kernel

/-- B10: WSGN is ignored. -/
theorem test_reduce_ignores_sign : runs (wide (2 * P) true) 0x00000030 0x02 (holds 0 0 false) = true := by decide +kernel

/-- The traces of B1, B6 and B7: q3, and how often the final loop runs. -/
theorem test_barrett_trace :
    barrettQ3 .fac256 (2 * P) = 1 ∧ barrettSteps .fac256 (2 * P) = 1 ∧
      barrettQ3 .fac256 (2 ^ 512 - 1) = 0x1c809f0fa10f7561f1e2c1bc964874e32b2fc30f72c43fc91384ed6af51619bc5 ∧
      barrettSteps .fac256 (2 ^ 512 - 1) = 1 ∧
      barrettQ3 .fac256 (2 ^ 320) = 0x1c809f0fa10f7561f ∧ barrettSteps .fac256 (2 ^ 320) = 0 := by decide +kernel

/-- B15: the hint has no effect. -/
theorem test_norm_hint : runs (two (P - 1) 0) 0xfff00131 0x02 (holds 1 (P - 1) false) = true := by decide +kernel

/-- B16: rd = rs1, and the sign is cleared. -/
theorem test_norm_sign : runs (regs [(0, P + 1, true)]) 0x00000031 0x02 (holds 0 1 false) = true := by decide +kernel

/-- F1. -/
theorem test_fadd_carries : runs (two (P - 1) (P - 1)) 0x00010240 0x02 (holds 2 (P - 2) false) = true := by
  decide +kernel

/-- F5. -/
theorem test_fadd_range : runs (two (M - 1) (M - 1)) 0x00010240 0x26 (kept (two (M - 1) (M - 1))) = true := by
  decide +kernel

/-- F6. -/
theorem test_fsub_borrows : runs (two 0 1) 0x00010241 0x02 (holds 2 (P - 1) false) = true := by decide +kernel

/-- F9. -/
theorem test_fsub_range : runs (two 0 (M - 1)) 0x00010241 0x26 (kept (two 0 (M - 1))) = true := by decide +kernel

/-- F11. -/
theorem test_fneg_p : runs (two P 0) 0x00000142 0x02 (holds 1 0 false) = true := by decide +kernel

/-- F13. -/
theorem test_fneg_range : runs (two (P + 1) 0) 0x00000142 0x26 (kept (two (P + 1) 0)) = true := by decide +kernel

/-- F16: operands far from canonical, W unchanged. -/
theorem test_fmul_wide :
    runs (two (M - 1) 0) 0x00000243 0x02 (fun t =>
      holds 2 0x2b55e6900c0e18a40bbd89a4a589aab70bb16bc51510d19ce537c944985e128c false t && holdsW 0 false t) = true := by
  decide +kernel

/-- T5: BARRETT_BOUND. -/
theorem test_fmul_bound :
    runs (twoT (2 ^ 512 - 1) 0 0) 0x00000243 0x36 (kept (twoT (2 ^ 512 - 1) 0 0)) = true := by decide +kernel

/-- F24: a non-canonical 2. -/
theorem test_finv_two : runs (two (P + 2) 0) 0x00000144 0x02 (holds 1 ((P + 1) / 2) false) = true := by decide +kernel

/-- F23: a non-canonical 0. -/
theorem test_finv_zero : runs (two P 0) 0x00000144 0x46 (kept (two P 0)) = true := by decide +kernel

/-- F25: the dividend is E[rs1]. -/
theorem test_fdiv_half : runs (two 1 2) 0x00010245 0x02 (holds 2 ((P + 1) / 2) false) = true := by decide +kernel

/-- T7: a zero divisor wins over BARRETT_BOUND (60_exceptions.md R204). -/
theorem test_fdiv_zero_first :
    runs (twoT (2 ^ 512 - 1) 0 0) 0x00010245 0x46 (kept (twoT (2 ^ 512 - 1) 0 0)) = true := by decide +kernel

/-- F36: the exponent is used as given. -/
theorem test_fpow_long :
    runs (two 2 (M - 1)) 0x00010246 0x02
      (holds 2 0x521118a0b32dba8cb97fec9a983532bb5988c22079411961222106395fb08667 false) = true := by decide +kernel

/-- F31: 0 to the power 0. -/
theorem test_fpow_zero : runs (two 0 0) 0x00010246 0x02 (holds 2 1 false) = true := by decide +kernel

/-- X4 on a state that latched it, and X11: ILLEGAL wins over ZERO_INVERSE. -/
theorem test_illegal :
    answers (engineTurn ((two 0 0).accept 0x0000000100000010)) (fun t => t.statusWord == 0x16 && kept (two 0 0) t) = true ∧
      runs (two 0 0) 0x00010144 0x16 (kept (two 0 0)) = true := by decide +kernel

/-! ## FAC480 (95_test_vectors.md L2.7) -/

/-- T3. -/
theorem test_fac480_reduce : runs (twoT 0 0 (2 ^ 960 - 1)) 0x00000030 0x02 (holds 0 0x8a0 false) = true := by decide +kernel

/-- T4. -/
theorem test_fac480_bound : runs (twoT 0 0 (2 ^ 960)) 0x00000030 0x36 (kept (twoT 0 0 (2 ^ 960))) = true := by
  decide +kernel

/-- T2. -/
theorem test_fac480_norm : runs (twoT (2 ^ 512 - 1) 0 0) 0x00000131 0x02 (holds 1 0x2effffffff false) = true := by
  decide +kernel

/-! ## The register window -/

/-- H1, H2: what the host reads after reset. -/
theorem test_reset_reads :
    State.reset.readReg .status = 0 ∧ State.reset.readReg .flags = 0 ∧ State.reset.readReg .signs = 0 ∧
      State.reset.readReg .cmd = 0 ∧ State.reset.readReg .id = 0x0000000001434146 ∧
      State.reset.readReg .config = 0x0000010000082004 ∧
      (State.resetOf instT).readReg .config = 0x000001E001083C08 := by decide +kernel

/-- H3, H4: the limbs of P and MU (00_scope.md R5). -/
theorem test_constant_windows :
    (List.range 4).map (fun j => State.reset.readReg (.p j)) =
        [0x185cac6c5e089667, 0xee5b88d120b5b59e, 0xaa6fecb86184dc21, 0x8fb501e34aa387f9] ∧
      (List.range 5).map (fun j => State.reset.readReg (.mu j)) =
        [0x384ed6af51619bc6, 0xb2fc30f72c43fc91, 0x1e2c1bc964874e32, 0xc809f0fa10f7561f, 0x0000000000000001] := by
  decide +kernel

/-- The map's corners (20_memory.md R52): the reserved offsets of FAC256, and the last slots of FAC480. -/
theorem test_window_map :
    [0x030, 0x0f8, 0x120, 0x138, 0x340, 0x378, 0x420, 0x438, 0x468, 0x480, 0x488, 0xff8].map (slotAt .fac256) =
        List.replicate 12 none ∧
      [0x118, 0x2d8, 0x338, 0x418, 0x460].map (slotAt .fac256) =
        [some (.e 0 3), some (.e 7 3), some (.w 7), some (.p 3), some (.mu 4)] ∧
      [0x138, 0x2f8, 0x378, 0x438, 0x480, 0x488].map (slotAt instT.variant) =
        [some (.e 0 7), some (.e 7 7), some (.w 15), some (.p 7), some (.mu 8), none] := by decide +kernel

/-- H5, H6, H7: the accesses that get a bus error. -/
theorem test_bus_errors :
    hostAccess (.read 0x420 8) State.reset = .fault (.hostBusError (.read 0x420 8) .reserved) ∧
      hostAccess (.write 0x020 8 1) State.reset = .fault (.hostBusError (.write 0x020 8 1) .readOnly) ∧
      hostAccess (.read 0x018 4) State.reset = .fault (.hostBusError (.read 0x018 4) .width) ∧
      hostAccess (.read 0x01c 8) State.reset = .fault (.hostBusError (.read 0x01c 8) .misaligned) := by
  refine ⟨?_, ?_, ?_, ?_⟩ <;> rfl

/-- H8: SIGNS keeps bits 8:0 only. -/
theorem test_signs : (State.reset.setSigns 0xFFFFFFFFFFFFFFFF).signsWord = 0x1FF := by decide +kernel

/-- H15, H17, H18: clearing the error of H14. -/
theorem test_clear_error :
    answers (((two 0 0).raiseError .zeroInverse).writeStatus 0) (fun t => t.statusWord == 0x46) = true ∧
      answers (((two 0 0).raiseError .zeroInverse).writeStatus 4) (fun t => t.statusWord == 0x2) = true ∧
      answers (State.reset.writeStatus 4) (fun t => t.statusWord == 0) = true := by decide +kernel

/-- H16: a CMD write while ERR = 1. -/
theorem test_ignored_command :
    answers (step (pending ((two 0 0).raiseError .zeroInverse) [memWrite 0x010 0x10]))
      (fun t => t.statusWord == 0x46 && t.lastcmd == 0 && t.engine == .idle) = true := by decide +kernel

/-- H19: STATUS right after acceptance. -/
theorem test_accepted :
    answers (step (pending (two 2 0) [memWrite 0x010 0x144]))
      (fun t => t.statusWord == 0x1 && t.lastcmd == 0x144 && t.engine == .running 0x144) = true := by decide +kernel

/-- H20: the accesses refused while BUSY = 1. -/
theorem test_busy_refused :
    hostAccess (.write 0x010 8 0x10) ((two 2 0).accept 0x144) = .fault (.hostBusError (.write 0x010 8 0x10) .busy) ∧
      hostAccess (.read 0x140 8) ((two 2 0).accept 0x144) = .fault (.hostBusError (.read 0x140 8) .busy) ∧
      hostAccess (.write 0x028 8 1) ((two 2 0).accept 0x144) = .fault (.hostBusError (.write 0x028 8 1) .busy) := by
  refine ⟨?_, ?_, ?_⟩ <;> rfl

/-- R240: with `rst` deasserted already, driving it low abandons nothing. -/
theorem test_no_reset_without_assertion :
    answers (step (pending ((two 2 0).accept 0x144) [.rstLevel false]))
      (fun t => decide (t = (two 2 0).accept 0x144)) = true := by decide +kernel

/-- H26: reset abandons the command. -/
theorem test_reset_abandons :
    answers (runSteps 2 (pending ((two 2 0).accept 0x144) [.rstLevel true, .rstLevel false]))
      (fun t => t.statusWord == 0 && t.lastcmd == 0 && t.engine == .idle && (t.e.get 1).unwritten) = true := by
  decide +kernel

/-- H23, H24: what Safety says about unwritten limbs. -/
theorem test_unwritten :
    stepReadsUnwritten (State.reset.withFetchWord 32 0x00021010) = true ∧
      stepReadsUnwritten ((regs [(1, 3, false), (2, 4, false)]).withFetchWord 32 0x00021010) = false ∧
      stepReadsUnwritten (pending State.reset [memRead 0x100]) = true ∧
      stepReadsUnwritten (pending (State.reset.accept 0x00021010) [memRead 0x100]) = false := by decide +kernel

/-- L1-8: the bytes of b become its limbs, and the canonical value its bytes again. -/
theorem test_byte_round_trip :
    let buf : List Byte :=
      [18, 230, 103, 159, 192, 216, 155, 198, 46, 121, 108, 197, 28, 76, 40, 156,
       149, 46, 224, 206, 225, 159, 252, 64, 166, 170, 200, 237, 205, 26, 187, 70]
    bufferVal buf = 0x12e6679fc0d89bc62e796cc51c4c289c952ee0cee19ffc40a6aac8edcd1abb46 ∧
      (two (bufferVal buf) 0).canonicalBytes 0 = some buf := by decide +kernel

/-! ## Assembler (30_encoding.md R91, R92: the rules' own examples and pseudo-instructions) -/

theorem test_assemble :
    assembleLine "FMUL e2, e0, e1".toList = some (.fmul 2 0 1) ∧ assembleLine "CMP e3, e4".toList = some (.cmp 3 4) ∧
      assembleLine "REDUCE e5".toList = some (.reduce 5) ∧
      assembleLine "norm e1, e1, 0x2 ; twice".toList = some (.norm 1 1 2) := by decide +kernel

theorem test_assemble_pseudo :
    assembleLine "NORM e1, e2".toList = some (.norm 1 2 0) ∧ assembleLine "FSQR e3, e4".toList = some (.fmul 3 4 4) ∧
      assembleLine "SQRW e5".toList = some (.mulw 5 5) ∧ assembleLine "CANON e6".toList = some (.norm 6 6 0) ∧
      assembleLine "ADD e8, e0, e0".toList = none ∧ assembleLine "NORM e1, e2, 4096".toList = none := by decide +kernel

/-! ## Witnesses: for every statement of Obligations.lean with hypotheses, values that meet them, at the edges of each clause -/

/-- An answer with a property, as a next state. -/
theorem next_of_answers {r : Result} {q : State → Bool} (h : answers r q = true) : ∃ t, r = .next t ∧ q t = true := by
  cases r with
  | next t => exact ⟨t, rfl, h⟩
  | fault f => cases h
  | refused f => cases h

/-- The hypotheses on the FAC480 of the witnesses: its open parameters meet 00_scope.md R6 and R9. -/
theorem instT_sized : instT.variant.sized = true ∧ Variant.fac256.sized = true := by decide +kernel

theorem witness_DecodeEncodeRoundTrip : Instr.wellFormed (.norm 7 7 4095) = true := by decide

theorem witness_EncodeDecodeRoundTrip : decode 0xfff00131 = .ok (.norm 1 0 4095) ∧ decode 0x46 = .ok (.fpow 0 0 0) := by
  decide

theorem witness_CommandIffMaskMatches :
    decode 0x00077710 = .ok (.add 7 7 7) ∧ Instr.wellFormed (.norm 7 7 4095) = true := by decide

/-- One value for each condition of R89, with the engine's turn pending and with nothing pending. -/
theorem witness_IllegalWordRaisesIllegal :
    ((two 0 0).accept 0x0000000100000010).engine = .running 0x0000000100000010 ∧
      (0x0000000100000010 : Word).toNat / 2 ^ 32 ≠ 0 ∧
      (∀ o ∈ allOps, o.code ≠ (0x16 : Word).toNat % 2 ^ 8) ∧
      Op.mulw.code = (0x112 : Word).toNat % 2 ^ 8 ∧ Op.mulw.shape.usesRd = false ∧ (0x112 : Word).toNat / 2 ^ 8 % 16 ≠ 0 ∧
      Op.add.code = (0x810 : Word).toNat % 2 ^ 8 ∧ Op.add.shape.usesRd = true ∧ 8 ≤ (0x810 : Word).toNat / 2 ^ 8 % 16 ∧
      ((two 0 0).accept 0x16).inputs = [] ∧ (pending ((two 0 0).accept 0x16) [.engineTurn]).inputs = [.engineTurn] := by
  decide +kernel

theorem witness_StepRunsDecodedCommand :
    ((two 0 0).accept 0x00010240).engine = .running 0x00010240 ∧ decode 0x00010240 = .ok (.fadd 2 0 1) ∧
      ((two 0 0).accept 0x00010240).inputs = [] ∧
      (pending ((two 0 0).accept 0x00010240) [.engineTurn]).inputs = [.engineTurn] := by decide +kernel

/-- The hypothesis of the unsigned statements: SubGivesDifferenceAndBorrow at a = b and b = a + 1, MulwGivesExactProduct and
ShrGivesHalfAndBottomBit at the largest operand. -/
theorem witness_unsigned :
    (two 5 5).Shaped ∧ (two 0 1).Shaped ∧ (two 0 1).readE 0 < (two 0 1).readE 1 ∧ (two (M - 1) (M - 1)).Shaped := by
  decide +kernel

theorem witness_UnsignedResultsAreExact :
    (two (M - 1) 1).Shaped ∧ (∃ t, exec (.add 2 0 1) (two (M - 1) 1) = .next t) ∧
      (∃ t, exec (.sub 2 0 1) (two (M - 1) 1) = .next t) ∧ (∃ t, exec (.mulw 0 1) (two (M - 1) 1) = .next t) ∧
      (∃ t, exec (.shl1 2 0) (two (M - 1) 1) = .next t) ∧ ∃ t, exec (.shr1 2 0) (two (M - 1) 1) = .next t :=
  ⟨by decide +kernel, ⟨_, rfl⟩, ⟨_, rfl⟩, ⟨_, rfl⟩, ⟨_, rfl⟩, ⟨_, rfl⟩⟩

/-- The sum M - 1 fits, M does not. -/
theorem witness_SaddGivesExactSumOrRange :
    ((two (M - 1) 0).svalE 0 + (two (M - 1) 0).svalE 1).natAbs < M ∧
      M ≤ ((two (M - 1) 1).svalE 0 + (two (M - 1) 1).svalE 1).natAbs := by decide +kernel

/-- The difference -(M - 1) fits, -M does not. -/
theorem witness_SsubGivesExactDifferenceOrRange :
    ((two 0 (M - 1)).svalE 0 - (two 0 (M - 1)).svalE 1).natAbs < M ∧
      M ≤ ((regs [(0, 1, true), (1, M - 1, false)]).svalE 0 - (regs [(0, 1, true), (1, M - 1, false)]).svalE 1).natAbs := by
  decide +kernel

/-- SmulwGivesExactProduct, SfoldGivesResidue and SfoldwGivesResidue, on a negative operand. -/
theorem witness_signed :
    (regs [(0, M - 1, true), (1, 1, false)]).Shaped ∧ (regs [(0, M - 1, true), (1, 1, false)]).svalE 0 = -((M - 1 : Nat) : Int) ∧
      (regs [(0, M - 1, true), (1, 1, false)]).inst.variant.sized = true ∧
      (wide (2 ^ 512 - 1) true).swide = -((2 ^ 512 - 1 : Nat) : Int) := by decide +kernel

/-- The largest x of each variant that raises nothing, and the first that does. -/
theorem witness_BarrettComputesResidue :
    2 ^ 512 - 1 < limbBase ^ (2 * Variant.fac256.n) ∧ 2 ^ 512 - 1 < Variant.fac256.barrettBound ∧
      2 ^ 960 - 1 < instT.variant.barrettBound ∧ 2 ^ 960 < limbBase ^ (2 * instT.variant.n) ∧
      ¬2 ^ 960 < instT.variant.barrettBound := by decide +kernel

theorem witness_ReduceGivesResidueOrBound :
    (twoT 0 0 (2 ^ 960 - 1)).inst.variant.sized = true ∧
      (twoT 0 0 (2 ^ 960 - 1)).readW < (twoT 0 0 (2 ^ 960 - 1)).inst.variant.barrettBound ∧
      (twoT 0 0 (2 ^ 960)).inst.variant.barrettBound ≤ (twoT 0 0 (2 ^ 960)).readW ∧
      (wide (2 ^ 512 - 1) true).inst.variant = .fac256 ∧ (wide (2 ^ 512 - 1) true).Shaped := by decide +kernel

theorem witness_NormGivesResidue : 4095 < 4096 ∧ (two (M - 1) 0).inst.variant.sized = true := by decide +kernel

theorem witness_LoopsLeaveResidues :
    Variant.fac256.sized = true ∧ subtractWhile P 2 (P + 1) = some 1 ∧ foldLoop P 2 (-1) = some (P - 1) := by
  decide +kernel

/-- M - 1 + P leaves M - 1, which fits, and M - 1 + (P + 1) leaves M, which does not. -/
theorem witness_FaddSubtractsOnce :
    (two (M - 1) P).readE 0 + (two (M - 1) P).readE 1 - (two (M - 1) P).p < 2 ^ (64 * (two (M - 1) P).n) ∧
      2 ^ (64 * (two (M - 1) (P + 1)).n) ≤
        (two (M - 1) (P + 1)).readE 0 + (two (M - 1) (P + 1)).readE 1 - (two (M - 1) (P + 1)).p := by decide +kernel

/-- b = a, b = a + 1, b = a + P and b = a + P + 1. -/
theorem witness_FsubAddsOnce :
    (two 9 9).inst.variant.sized = true ∧ (two 9 9).Shaped ∧ (two 9 9).readE 1 ≤ (two 9 9).readE 0 ∧
      (two 9 10).Shaped ∧ (two 9 10).readE 0 < (two 9 10).readE 1 ∧ (two 9 10).readE 1 ≤ (two 9 10).readE 0 + P ∧
      (two 9 (P + 9)).Shaped ∧ (two 9 (P + 9)).readE 1 ≤ (two 9 (P + 9)).readE 0 + P ∧
      (two 9 (P + 10)).Shaped ∧ (two 9 (P + 10)).readE 0 + P < (two 9 (P + 10)).readE 1 := by decide +kernel

/-- a = 0, a = P and a = P + 1. -/
theorem witness_FnegSubtractsFromModulus :
    (two 0 0).inst.variant.sized = true ∧ (two 0 0).readE 0 ≤ (two 0 0).p ∧ (two P 0).readE 0 ≤ (two P 0).p ∧
      (two (P + 1) 0).p < (two (P + 1) 0).readE 0 := by decide +kernel

/-- The products 2^960 - 2^480 and 2^960 about the bound 2^960, and FAC256. -/
theorem witness_FmulGivesProductResidue :
    instT.variant.sized = true ∧
      (twoT (2 ^ 480) (2 ^ 480 - 1) 0).readE 0 * (twoT (2 ^ 480) (2 ^ 480 - 1) 0).readE 1 < instT.variant.barrettBound ∧
      instT.variant.barrettBound ≤ (twoT (2 ^ 480) (2 ^ 480) 0).readE 0 * (twoT (2 ^ 480) (2 ^ 480) 0).readE 1 ∧
      (two (M - 1) (M - 1)).inst.variant = .fac256 ∧ (two (M - 1) (M - 1)).Shaped := by decide +kernel

theorem witness_PowEngineComputesPower :
    Variant.fac256.sized = true ∧ M - 1 < Variant.fac256.radix ∧ (0 : Nat) < Variant.fac256.radix := by decide +kernel

/-- a = P + 1, a = P, and P is prime. -/
theorem witness_FinvGivesInverseOrZeroInverse :
    (two (P + 1) 0).inst.variant.sized = true ∧ (two (P + 1) 0).readE 0 % (two (P + 1) 0).p ≠ 0 ∧
      (two (P + 1) 0).p.Prime ∧ (two P 0).readE 0 % (two P 0).p = 0 :=
  ⟨by decide +kernel, by decide +kernel, prime_p256, by decide +kernel⟩

/-- A power's residue from repeated squaring. -/
theorem pow_residue {m a e r : Nat} (fuel : Nat) (he : e < 2 ^ fuel) (h : powMod m fuel a e 1 = r) : a ^ e % m = r := by
  rw [← h, powMod_eq m fuel a e 1 he, one_mul]

/-- The value that FDIV multiplies by for a divisor 2: 2^(P-2) mod P is (P + 1) / 2. -/
theorem pow_two_inverse :
    2 ^ (2 ^ 480 - 47 - 2) % (2 ^ 480 - 47) = (2 ^ 480 - 46) / 2 ∧ 2 ^ (P - 2) % P = (P + 1) / 2 :=
  ⟨pow_residue 480 (by decide +kernel) (by decide +kernel), pow_residue 256 (by decide +kernel) (by decide +kernel)⟩

/-- A divisor congruent to 0; a divisor 2, whose inverse times 5 is below the bound 2^960 and times 2^482 is above; FAC256. -/
theorem witness_FdivMultipliesByInverse :
    (two 5 P).readE 1 % (two 5 P).p = 0 ∧ (two 5 2).readE 1 % (two 5 2).p ≠ 0 ∧ (two 5 2).p.Prime ∧
      (two 5 2).inst.variant = .fac256 ∧ (two 5 2).Shaped ∧
      (twoT 5 2 0).readE 1 % (twoT 5 2 0).p ≠ 0 ∧
      (twoT 5 2 0).readE 0 * ((2 ^ 480 - 46) / 2) < instT.variant.barrettBound ∧
      (twoT (2 ^ 482) 2 0).readE 1 % (twoT (2 ^ 482) 2 0).p ≠ 0 ∧
      instT.variant.barrettBound ≤ (twoT (2 ^ 482) 2 0).readE 0 * ((2 ^ 480 - 46) / 2) := by
  refine ⟨?_, ?_, prime_p256, ?_, ?_, ?_, ?_, ?_, ?_⟩ <;> decide +kernel

theorem witness_FpowGivesPower :
    (two P 0).inst.variant.sized = true ∧ (two P 0).Shaped ∧ (two P 0).readE 1 = 0 := by decide +kernel

theorem witness_FieldAxiomsHold : Variant.fac256.Valid ∧ P - 1 < Variant.fac256.p ∧ P - 1 ≠ 0 :=
  ⟨fac256_valid, by decide +kernel, by decide +kernel⟩

/-- The largest canonical operands, and the inversion of 0. -/
theorem witness_FieldResultsAreCanonical :
    (two (P - 1) (P - 1)).inst.variant.sized = true ∧ (Instr.fadd 2 0 1).op ∈ [Op.fadd, .fsub, .fneg, .fmul, .finv, .fdiv, .fpow] ∧
      (∀ r ∈ sourcesOf (.fadd 2 0 1), (two (P - 1) (P - 1)).readE r < (two (P - 1) (P - 1)).p) ∧
      (∃ t, exec (.fadd 2 0 1) (two (P - 1) (P - 1)) = .next t ∧ holds 2 (P - 2) false t = true) ∧
      (∀ r ∈ sourcesOf (.finv 1 0), (two 0 0).readE r < (two 0 0).p) ∧
      ∃ t, exec (.finv 1 0) (two 0 0) = .next t ∧ (t.statusWord == 0x46) = true :=
  ⟨by decide +kernel, by decide, by decide +kernel, next_of_answers (by decide +kernel), by decide +kernel,
    next_of_answers (by decide +kernel)⟩

theorem witness_ErrorsArePrecise :
    ((two 0 0).accept 0x144).engine = .running 0x144 ∧ ((two 0 0).accept 0x144).status.err = false ∧
      ∃ t, engineTurn ((two 0 0).accept 0x144) = .next t ∧ t.status.err = true :=
  ⟨rfl, rfl, next_of_answers (by decide +kernel)⟩

/-- ILLEGAL, RANGE, BARRETT_BOUND and ZERO_INVERSE. -/
theorem witness_ErrorCodesByCommand :
    ((two 0 0).inst.variant.sized = true ∧ (two 0 0).Shaped ∧
      ∃ t, engineTurn ((two 0 0).accept 0x16) = .next t ∧ (t.statusWord == 0x16) = true) ∧
      ((two (M - 1) 1).Shaped ∧ ∃ t, engineTurn ((two (M - 1) 1).accept 0x10220) = .next t ∧ (t.statusWord == 0x26) = true) ∧
      ((twoT 0 0 (2 ^ 960)).inst.variant.sized = true ∧ (twoT 0 0 (2 ^ 960)).Shaped ∧
        ∃ t, engineTurn ((twoT 0 0 (2 ^ 960)).accept 0x30) = .next t ∧ (t.statusWord == 0x36) = true) ∧
      ∃ t, engineTurn ((two 0 0).accept 0x144) = .next t ∧ (t.statusWord == 0x46) = true :=
  ⟨⟨by decide +kernel, by decide +kernel, next_of_answers (by decide +kernel)⟩,
    ⟨by decide +kernel, next_of_answers (by decide +kernel)⟩,
    ⟨by decide +kernel, by decide +kernel, next_of_answers (by decide +kernel)⟩, next_of_answers (by decide +kernel)⟩

/-- A command with a register, one with W, one with C and one with the order flags as its destination. -/
theorem witness_CommandFrame :
    (∃ t, exec (.norm 1 0 0) (two P 0) = .next t) ∧ (∃ t, exec (.mulw 0 1) (two P 0) = .next t) ∧
      (∃ t, exec (.add 1 0 0) (two P 0) = .next t) ∧ (∃ t, exec (.cmp 0 1) (two P 0) = .next t) ∧
      destOf (.norm 1 0 0) ≠ some 0 ∧ (Instr.norm 1 0 0).op ∉ [Op.mulw, .smulw] ∧
      (Instr.norm 1 0 0).op ∉ [Op.add, .sub, .shl1, .shr1] ∧ (Instr.norm 1 0 0).op ≠ .cmp :=
  ⟨⟨_, rfl⟩, ⟨_, rfl⟩, ⟨_, rfl⟩, ⟨_, rfl⟩, by decide, by decide, by decide, by decide⟩

theorem witness_OtherCommandsIgnoreWide :
    readsWide (.add 2 0 1) = false ∧ (∃ t, exec (.add 2 0 1) (two 1 2) = .next t) ∧ readsWide (.mulw 0 1) = false ∧
      ∃ t, exec (.mulw 0 1) (two 1 2) = .next t :=
  ⟨rfl, ⟨_, rfl⟩, rfl, ⟨_, rfl⟩⟩

/-- A CMP, and a step from a state with one order flag set. -/
theorem witness_OneOrderFlagAfterCmp :
    (∃ t, exec (.cmp 0 1) (two P 0) = .next t) ∧
      (∃ t, step (((two P 0).setOrder 1 2).accept 0x00010240) = .next t ∧ t.flags.lt = true) ∧
      [((two P 0).setOrder 1 2).flags.lt, ((two P 0).setOrder 1 2).flags.eq, ((two P 0).setOrder 1 2).flags.gt].count true
        = 1 ∧ ((two P 0).setOrder 1 2).inputs = [] :=
  ⟨⟨_, rfl⟩, next_of_answers (by decide +kernel), by decide, rfl⟩

/-- States of the invariant: idle, running, with an error recorded, and in reset; and a step from one of them. -/
theorem witness_StepKeepsInvariant :
    (two 2 0).Inv ∧ ((two 2 0).accept 0x144).Inv ∧ ((two 0 0).raiseError .zeroInverse).Inv ∧
      ((two 2 0).setRst true).Inv ∧ ∃ t, step ((two 2 0).accept 0x144) = .next t ∧ holds 1 ((P + 1) / 2) false t = true :=
  ⟨by decide +kernel, by decide +kernel, by decide +kernel, by decide +kernel, next_of_answers (by decide +kernel)⟩

/-- Two instances that differ in the window's place, what is pending and what was read last; and accesses while they run. -/
theorem witness_ResultsDependOnAcceptedState :
    let s := (two 2 0).accept 0x144
    let s' := { s with inst := { s.inst with facBase := 0x1000 }, rdata := some 7, inputs := [.engineTurn] }
    s.Inv ∧ s'.Inv ∧ s.engine = .running 0x144 ∧ s'.engine = .running 0x144 ∧ s.inst.variant = s'.inst.variant ∧
      s.e = s'.e ∧ s.w = s'.w ∧ s.flags = s'.flags ∧ (∃ t, engineTurn s = .next t ∧ t.status.done = true) ∧
      ∃ t, engineTurn ([Access.read 0x1018 8, .write 0x1010 8 0].foldl State.afterAccess s') = .next t ∧
        t.status.done = true :=
  ⟨by decide +kernel, by decide +kernel, rfl, rfl, rfl, rfl, rfl, rfl, next_of_answers (by decide +kernel),
    next_of_answers (by decide +kernel)⟩

theorem witness_AccessesDoNotDisturbCommand :
    ((two 2 0).accept 0x144).Inv ∧ ((two 2 0).accept 0x144).engine = .running 0x144 ∧
      ∃ t, engineTurn ((two 2 0).accept 0x144) = .next t ∧ t.status.done = true :=
  ⟨by decide +kernel, rfl, next_of_answers (by decide +kernel)⟩

theorem witness_ResetValues : (two 2 0).inst = Inst.default ∧ WinReg.mu 4 = .mu 4 := ⟨rfl, rfl⟩

/-- `rst` asserted while a command runs, an access in reset at the window's first and last slots, `rst` released, and an
access answered while a command runs. -/
theorem witness_ResetInput :
    (pending ((two 2 0).accept 0x144) [.rstLevel true]).inputs = [.rstLevel true] ∧
      ((two 2 0).setRst true).rst = true ∧ (Access.read 0xff8 8).addr < ((two 2 0).setRst true).inst.facBase + 4096 ∧
      ((two 2 0).setRst true).inst.facBase ≤ (Access.read 0 8).addr ∧
      (pending ((two 2 0).setRst true) [.rstLevel false]).inputs = [.rstLevel false] ∧
      (pending ((two 2 0).setRst true) [.rstLevel false]).rst = true ∧
      (pending ((two 2 0).accept 0x144) [memRead 0x018]).Inv ∧
      ∃ t, step (pending ((two 2 0).accept 0x144) [memRead 0x018]) = .next t ∧ t.status.busy = true :=
  ⟨rfl, rfl, by decide, by decide, rfl, rfl, by decide +kernel, next_of_answers (by decide +kernel)⟩

theorem witness_DrivingRstLowTwiceChangesNothing :
    (pending ((two 2 0).accept 0x144) [.rstLevel false]).rst = false ∧
      (pending ((two 2 0).accept 0x144) [.rstLevel false]).inputs = [.rstLevel false] := ⟨rfl, rfl⟩

theorem witness_WindowMapIsExact :
    (0 : Nat) < 4096 ∧ 0 % 8 = 0 ∧ 0xff8 < 4096 ∧ 0xff8 % 8 = 0 ∧ 0x0f8 < 4096 ∧ 0x0f8 % 8 = 0 := by decide

/-- Another width, a misaligned offset, a reserved offset (0x420 and 0x488 are no slot's in FAC256). -/
theorem witness_OddAndReservedAccessesRefused :
    State.reset.inst.facBase ≤ (Access.read 0x018 4).addr ∧ (Access.read 0x018 4).addr < State.reset.inst.facBase + 4096 ∧
      (Access.read 0x018 4).width ≠ 8 ∧ ((Access.read 0x01c 8).addr - State.reset.inst.facBase) % 8 ≠ 0 ∧
      ∀ r : WinReg, r.present .fac256 = true → r.offset ≠ 0x420 := by
  refine ⟨by decide, by decide, by decide, by decide, fun r hp h => ?_⟩
  cases r with
  | id | config | cmd | status | flags | signs => simp [WinReg.offset] at h
  | e i j =>
    have hj : j < 4 := of_decide_eq_true hp
    have hi := i.isLt
    simp only [WinReg.offset] at h
    omega
  | w j =>
    have hj : j < 8 := of_decide_eq_true hp
    simp only [WinReg.offset] at h
    omega
  | p j =>
    have hj : j < 4 := of_decide_eq_true hp
    simp only [WinReg.offset] at h
    omega
  | mu j =>
    simp only [WinReg.offset] at h
    omega

/-- The last P and MU limbs of both variants, while busy. -/
theorem witness_ConstantReads :
    ((two 2 0).accept 0x144).rst = false ∧ ((two 2 0).accept 0x144).inst.variant = .fac256 ∧
      (twoT 0 0 0).inst.variant ≠ .fac256 ∧ 3 < ((two 2 0).accept 0x144).n ∧ 4 < ((two 2 0).accept 0x144).n + 1 ∧
      7 < (twoT 0 0 0).n ∧ 8 < (twoT 0 0 0).n + 1 := by decide +kernel

/-- The last limbs of E7 and W. -/
theorem witness_LimbReadsAndWrites :
    (two 1 2).rst = false ∧ (two 1 2).status.busy = false ∧ (two 1 2).Shaped ∧ 3 < (two 1 2).n ∧
      ((two 1 2).e.get 7).limbs[3]? = some { limb := 0, written := false } ∧ 7 < 2 * (two 1 2).n ∧
      (two 1 2).w.limbs[7]? = some { limb := 0, written := true } := by decide +kernel

/-- The reads and writes of StatusReadAndClear, CmdAndFlagsReads, SignsReadAndWrite, ReadOnlyWritesRefused and
CmdWriteThreeCases, pending in states that meet their hypotheses: idle, busy, and with an error. -/
theorem witness_registerAccesses :
    (pending (two 1 2) [memRead 0x018]).rst = false ∧
      (pending (two 1 2) [memRead 0x018]).inputs = [.access (.read ((two 1 2).inst.facBase + 0x018) 8)] ∧
      (pending (two 1 2) [memWrite 0x018 4]).inputs = [.access (.write ((two 1 2).inst.facBase + 0x018) 8 4)] ∧
      (pending (two 1 2) [memRead 0x020]).status.busy = false ∧ (pending (two 1 2) [memWrite 0x028 0x1ff]).status.busy = false ∧
      (pending (two 1 2) [memWrite 0x460 1]).inputs = [.access (.write ((two 1 2).inst.facBase + (0x440 + 8 * 4)) 8 1)] ∧
      4 < (two 1 2).n + 1 ∧ ((two 2 0).accept 0x144).status.busy = true ∧
      (two 1 2).status.err = false ∧ ((two 0 0).raiseError .zeroInverse).status.err = true ∧
      ((two 0 0).raiseError .zeroInverse).status.busy = false ∧ (Access.read 0x028 8).addr = (two 2 0).inst.facBase + 0x028 := by
  decide +kernel

/-- While busy: allowed reads and an allowed write, and accesses that are not. -/
theorem witness_BusyAccesses :
    ((two 2 0).accept 0x144).rst = false ∧ ((two 2 0).accept 0x144).status.busy = true ∧
      (pending ((two 2 0).accept 0x144) [memRead 0x460]).inputs =
        [.access (.read (((two 2 0).accept 0x144).inst.facBase + (0x440 + 8 * 4)) 8)] ∧
      4 < ((two 2 0).accept 0x144).n + 1 ∧ (Access.write 0x018 8 4).addr = ((two 2 0).accept 0x144).inst.facBase + 0x018 ∧
      (Access.read 0x020 8).addr < ((two 2 0).accept 0x144).inst.facBase + 4096 ∧ (Access.read 0x020 8).addr ≠ 0x018 := by
  decide +kernel

theorem witness_ErrorReturn :
    let s := (two 0 0).raiseError .zeroInverse
    s.rst = false ∧ s.status.busy = false ∧ s.status.err = true ∧ (4 : Word).getLsbD 2 = true ∧
      (pending s [memWrite 0x018 4, memWrite 0x010 0x10]).inputs =
        [.access (.write (s.inst.facBase + 0x018) 8 4), .access (.write (s.inst.facBase + 0x010) 8 0x10)] := by
  decide +kernel

/-- An idle FAC with a command and two polls pending, with the engine's turn among the inputs and without. -/
theorem witness_AcceptedCommandCompletes :
    (two 2 0).Inv ∧ (two 2 0).rst = false ∧ (two 2 0).status.busy = false ∧ (two 2 0).status.err = false ∧
      (pending (two 2 0) [memWrite 0x010 0x144, memRead 0x018, memRead 0x018, .engineTurn]).inputs =
        memWrite (addrCmd (two 2 0).inst) 0x144 :: (List.replicate 2 (hPoll (two 2 0).inst) ++ [.engineTurn]) := by
  decide +kernel

theorem witness_HloadStoresValue :
    let s := pending (two 1 2) (hLoad (two 1 2).inst 7 (M - 1))
    s.rst = false ∧ s.status.busy = false ∧ s.Shaped ∧ M - 1 < 2 ^ (64 * s.n) ∧ s.inputs = hLoad s.inst 7 (M - 1) ++ [] := by
  decide +kernel

/-- The stores of the safe sequence's witness. -/
def safeStores (c : Inst) : List (List Input) := [hLoad c 0 P, hLoad c 1 5, hLoadW c 7, hSigns c 3]

/-- The reads of the safe sequence's witness. -/
def safeReads (c : Inst) : List (List Input) := [hRead c 2, [memRead (addrFlags c)], [memRead (addrSigns c)]]

/-- The sequence from an idle FAC and from one whose running command (FINV of 2) completes without an error, with either
closing phase. -/
theorem witness_SafeSequenceGetsNoBusError :
    ∀ s ∈ [two 1 2, (two 2 0).accept 0x144], ∀ closing ∈ [hClr s.inst, (safeReads s.inst).flatten],
      let t := pending s (hWait s.inst 1 ++ (safeStores s.inst).flatten ++ hCmd s.inst 0x00010220 ++ hWait s.inst 2 ++ closing)
      t.Inv ∧ t.rst = false ∧ answers (engineTurn t) (fun u => !u.status.err) = true ∧
        safeStores t.inst = [hLoad t.inst 0 P, hLoad t.inst 1 5, hLoadW t.inst 7, hSigns t.inst 3] ∧
        safeReads t.inst = [hRead t.inst 2, [memRead (addrFlags t.inst)], [memRead (addrSigns t.inst)]] := by
  decide +kernel

/-- A command that reads an unwritten register, a host read of an unwritten limb, and two accesses that fault. -/
theorem witness_StepOutcomes :
    stepReadsUnwritten (State.reset.withFetchWord 32 0x00021010) = true ∧
      stepReadsUnwritten (pending State.reset [memRead 0x100]) = true ∧
      (∃ f, step (pending (State.reset.accept 0x00021010) [memRead 0x100]) = .fault f) ∧
      ∃ f, step (pending State.reset [memRead 0x1000]) = .fault f :=
  ⟨by decide +kernel, by decide +kernel, ⟨_, rfl⟩, ⟨_, rfl⟩⟩

end Sys2Proof.Tests
end

section
/-!
SUPPORT. What an answered command, engine's turn, host access and step can be: each operation is taken apart once here, from
the laws that say what it can answer.
-/

namespace Sys2Proof.Machine

variable {s t : State}

/-- A command that answers a next state has raised an error, or written an element register (and perhaps C), W, or LT, EQ
and GT, and completed. -/
theorem exec_next_cases {i : Instr} (h : exec i s = .next t) :
    (∃ c, t = s.raiseError c) ∨
    (∃ rd v neg, destOf i = some rd ∧ t = (s.writeE rd v neg).finish) ∨
    (∃ rd v c, destOf i = some rd ∧ (i.op = .add ∨ i.op = .sub ∨ i.op = .shl1 ∨ i.op = .shr1) ∧
      t = ((s.writeE rd v false).setC c).finish) ∨
    (∃ v neg, (i.op = .mulw ∨ i.op = .smulw) ∧ t = (s.writeW v neg).finish) ∨
    (∃ a b, i.op = .cmp ∧ t = (s.setOrder a b).finish) := by
  have eq_of {u : State} (hu : exec i s = .next u) : t = u := by rw [h] at hu; cases hu; rfl
  rcases exec_cases i s with ⟨c, -, hu⟩ | ⟨rd, v, neg, hd, hu⟩ | ⟨rd, v, c, hd, ho, hu⟩ | ⟨v, neg, ho, hu⟩ | ⟨a, b, ho, hu⟩
  · exact .inl ⟨c, eq_of hu⟩
  · exact .inr (.inl ⟨rd, v, neg, hd, eq_of hu⟩)
  · exact .inr (.inr (.inl ⟨rd, v, c, hd, ho, eq_of hu⟩))
  · exact .inr (.inr (.inr (.inl ⟨v, neg, ho, eq_of hu⟩)))
  · exact .inr (.inr (.inr (.inr ⟨a, b, ho, eq_of hu⟩)))

/-- The engine's turn leaves an idle FAC as it is, and ends a running command in ILLEGAL or as `exec` does
(70_reset_and_hazards.md R250). -/
theorem engineTurn_next_cases (h : engineTurn s = .next t) :
    (s.engine = .idle ∧ t = s) ∨ ∃ v, s.engine = .running v ∧
      ((∃ r, decode v = .error r ∧ t = s.raiseError .illegal) ∨ ∃ i, decode v = .ok i ∧ exec i s = .next t) := by
  cases he : s.engine with
  | idle =>
    rw [engineTurn_idle he] at h
    cases h
    exact .inl ⟨rfl, rfl⟩
  | running v =>
    rw [engineTurn_running he] at h
    refine .inr ⟨v, rfl, ?_⟩
    cases hd : decode v with
    | error r =>
      rw [runLatched_illegal hd] at h
      cases h
      exact .inl ⟨r, rfl, rfl⟩
    | ok i => exact .inr ⟨i, rfl, runLatched_ok hd ▸ h⟩

/-- An answered access has reached a slot (20_memory.md R53, R59). -/
theorem exists_target_of_hostAccess_next {a : Access} (h : hostAccess a s = .next t) : ∃ r, s.target a = .ok r := by
  unfold hostAccess at h
  cases hr : s.target a with
  | error f => rw [hr] at h; cases h
  | ok r => exact ⟨r, rfl⟩

/-- No access is answered while `rst` is asserted (70_reset_and_hazards.md R240). -/
theorem rst_of_hostAccess_next {a : Access} (h : hostAccess a s = .next t) : s.rst = false := by
  obtain ⟨r, hr⟩ := exists_target_of_hostAccess_next h
  obtain ⟨-, -, hrst, -⟩ := State.target_ok_iff.mp hr
  exact hrst

/-- A step is the engine's turn when no input is pending, else the oldest input is taken (20_memory.md R70). -/
theorem step_next_cases (h : step s = .next t) :
    (s.inputs = [] ∧ engineTurn s = .next t) ∨
      ∃ x rest, s.inputs = x :: rest ∧ takeInput x { s with inputs := rest } = .next t := by
  cases hi : s.inputs with
  | nil => exact .inl ⟨rfl, step_nil hi ▸ h⟩
  | cons x rest => exact .inr ⟨x, rest, rfl, step_cons hi ▸ h⟩

end Sys2Proof.Machine
end

section
/-!
SUPPORT. What every update of the state does to the invariant `State.Inv` (10_state.md R22, R24, R26, R28, R34): one lemma per
update. `noData` and a change of the pending inputs or of the data last read leave every part of it as it is.
-/

namespace Sys2Proof.Machine

open Sys2Proof.Config

variable {s : State}

@[simp] theorem LimbReg.length_reset (n : Nat) : (LimbReg.reset n).limbs.length = n := by simp [LimbReg.reset]

/-- A register file stays shaped when a register of N limbs is put in it. -/
theorem State.Shaped.length_set (h : s.Shaped) (rd : Reg) {x : LimbReg} (hx : x.limbs.length = s.n) (i : Reg) :
    ((s.e.set rd x).get i).limbs.length = s.n := by
  rw [regs_get_set]
  split
  · exact hx
  · exact h.1 i

theorem State.Inv.writeE (h : s.Inv) (rd : Reg) (v : Nat) (neg : Bool) : (s.writeE rd v neg).Inv := by
  obtain ⟨hshape, hrest⟩ := h
  exact ⟨⟨hshape.length_set rd (length_limbsOf _ _), hshape.2⟩, hrest⟩

theorem State.Inv.writeW (h : s.Inv) (v : Nat) (neg : Bool) : (s.writeW v neg).Inv := by
  obtain ⟨⟨helem, -⟩, hrest⟩ := h
  exact ⟨⟨helem, length_limbsOf _ _⟩, hrest⟩

theorem State.Inv.setLimbE (h : s.Inv) (i : Reg) (j : Nat) (v : Limb) : (s.setLimbE i j v).Inv := by
  obtain ⟨hshape, hrest⟩ := h
  exact ⟨⟨hshape.length_set i ((LimbReg.length_setLimb _ j v).trans (hshape.1 i)), hshape.2⟩, hrest⟩

theorem State.Inv.setLimbW (h : s.Inv) (j : Nat) (v : Limb) : (s.setLimbW j v).Inv := by
  obtain ⟨⟨helem, hwide⟩, hrest⟩ := h
  exact ⟨⟨helem, (LimbReg.length_setLimb _ j v).trans hwide⟩, hrest⟩

theorem State.Inv.setSigns (h : s.Inv) (v : Word) : (s.setSigns v).Inv := by
  obtain ⟨⟨helem, hwide⟩, hrest⟩ := h
  exact ⟨⟨fun i => by simpa using helem i, hwide⟩, hrest⟩

theorem State.Inv.setC (h : s.Inv) (c : Bool) : (s.setC c).Inv := h

/-- Two numbers stand in at most one order. -/
theorem State.Inv.setOrder (h : s.Inv) (a b : Nat) : (s.setOrder a b).Inv := by
  obtain ⟨hshape, hstatus, -, hrest⟩ := h
  refine ⟨hshape, hstatus, ?_, hrest⟩
  simp only [State.setOrder_flags, Flags.Ok, decide_eq_true_eq, decide_eq_false_iff_not]
  omega

/-- Completion frees the engine together with BUSY (70_reset_and_hazards.md R250). -/
theorem State.Inv.finish (h : s.Inv) : s.finish.Inv := by
  obtain ⟨hshape, ⟨hcode, -, hrange, -, -⟩, hflags, -, -⟩ := h
  exact ⟨hshape, ⟨hcode, nofun, hrange, nofun, fun _ => rfl⟩, hflags, rfl, fun _ => rfl⟩

/-- Error entry records a code of 1 to 4 with ERR and DONE (60_exceptions.md R201, R203). -/
theorem State.Inv.raiseError (h : s.Inv) (c : ErrCode) : (s.raiseError c).Inv := by
  obtain ⟨hshape, -, hflags, -, -⟩ := h
  exact ⟨hshape, ⟨nofun, nofun, fun _ => c.code_range, nofun, fun _ => rfl⟩, hflags, rfl, fun _ => rfl⟩

theorem State.Inv.clearError (h : s.Inv) : s.clearError.Inv := by
  obtain ⟨hshape, ⟨-, -, -, hdone, -⟩, hrest⟩ := h
  exact ⟨hshape, ⟨fun _ => rfl, fun _ => rfl, nofun, hdone, nofun⟩, hrest⟩

/-- A command is accepted with ERR = 0 and out of reset only (20_memory.md R60, 70_reset_and_hazards.md R240). -/
theorem State.Inv.accept (h : s.Inv) (herr : s.status.err = false) (hrst : s.rst = false) (v : Word) :
    (s.accept v).Inv := by
  obtain ⟨hshape, ⟨hcode, -, -, -, -⟩, hflags, -, -⟩ := h
  refine ⟨hshape, ⟨hcode, fun _ => herr, ?_, fun _ => rfl, ?_⟩, hflags, ?_, ?_⟩
  · simp [herr]
  · simp [herr]
  · simp [State.engineOk]
  · simp [hrst]

/-- The reset values meet the invariant at either level of `rst` (10_state.md R40, 70_reset_and_hazards.md R240). -/
theorem State.Inv.enterReset (s : State) (level : Bool) : (s.enterReset level).Inv :=
  ⟨⟨fun i => by simp, by simp⟩, by simp [Status.Ok], by simp [Flags.Ok], rfl, fun _ => rfl⟩

theorem State.Inv.setRst (h : s.Inv) (level : Bool) : (s.setRst level).Inv := by
  rcases s.setRst_cases level with ⟨-, he⟩ | ⟨-, -, he⟩ <;> rw [he]
  · exact .enterReset s level
  · exact h

end Sys2Proof.Machine
end

section
/-!
SUPPORT. The invariant along a step: each kind of step keeps it, and the FAC's constants with it (10_state.md
R33).
-/

namespace Sys2Proof.Machine

variable {s t : State}

theorem exec_keeps_inv {i : Instr} (hs : s.Inv) (h : exec i s = .next t) : t.Inv ∧ t.inst = s.inst := by
  rcases exec_next_cases h with
    ⟨c, rfl⟩ | ⟨rd, v, neg, -, rfl⟩ | ⟨rd, v, c, -, -, rfl⟩ | ⟨v, neg, -, rfl⟩ | ⟨a, b, -, rfl⟩
  · exact ⟨hs.raiseError c, rfl⟩
  · exact ⟨(hs.writeE rd v neg).finish, rfl⟩
  · exact ⟨((hs.writeE rd v false).setC c).finish, rfl⟩
  · exact ⟨(hs.writeW v neg).finish, rfl⟩
  · exact ⟨(hs.setOrder a b).finish, rfl⟩

theorem engineTurn_keeps_inv (hs : s.Inv) (h : engineTurn s = .next t) : t.Inv ∧ t.inst = s.inst := by
  rcases engineTurn_next_cases h with ⟨-, rfl⟩ | ⟨v, -, ⟨r, -, rfl⟩ | ⟨i, -, hx⟩⟩
  · exact ⟨hs, rfl⟩
  · exact ⟨hs.raiseError .illegal, rfl⟩
  · exact exec_keeps_inv hs hx

theorem hostAccess_keeps_inv {a : Access} (hs : s.Inv) (h : hostAccess a s = .next t) : t.Inv ∧ t.inst = s.inst := by
  rcases hostAccess_next h with
    ⟨r, rfl⟩ | rfl | rfl | ⟨-, herr, v, rfl⟩ | ⟨-, ⟨v, rfl⟩ | ⟨i, j, v, rfl⟩ | ⟨j, v, rfl⟩⟩
  · exact ⟨hs, rfl⟩
  · exact ⟨hs, rfl⟩
  · exact ⟨hs.clearError, rfl⟩
  · exact ⟨hs.accept herr (rst_of_hostAccess_next h) v, rfl⟩
  · exact ⟨hs.setSigns v, rfl⟩
  · exact ⟨hs.setLimbE i j v, rfl⟩
  · exact ⟨hs.setLimbW j v, rfl⟩

theorem takeInput_keeps_inv {x : Input} (hs : s.Inv) (h : takeInput x s = .next t) : t.Inv ∧ t.inst = s.inst := by
  cases x with
  | access a => exact hostAccess_keeps_inv hs h
  | engineTurn => exact engineTurn_keeps_inv hs h
  | rstLevel level =>
    cases h
    exact ⟨hs.setRst level, s.setRst_inst level⟩

/-- Settles O39: each kind of step keeps the invariant, since every update it is made of does. -/
theorem stepKeepsInvariant : Obligations.StepKeepsInvariant := by
  intro s t hs h
  rcases step_next_cases h with ⟨-, hturn⟩ | ⟨x, rest, -, hinput⟩
  · exact engineTurn_keeps_inv hs hturn
  · exact takeInput_keeps_inv (s := { s with inputs := rest }) hs hinput

/-- Settles O40: the state after reset is one that enters reset, with `rst` deasserted and nothing pending. -/
theorem resetMeetsInvariant : Obligations.ResetMeetsInvariant := fun c => .enterReset (State.resetOf c) false

end Sys2Proof.Machine
end

section
/-!
PROOF. The frame of the commands (10_state.md R23 to R25), and what they do not read (R24).
-/

namespace Sys2Proof.Machine

variable {s t : State}

/-- Settles O36, case by case along what an answered command can be. -/
theorem commandFrame : Obligations.CommandFrame := by
  intro i s t h
  have others {rd : Reg} (x : LimbReg) (hd : destOf i = some rd) (r : Reg) (hr : destOf i ≠ some r) :
      (s.e.set rd x).get r = s.e.get r :=
    regs_get_set_of_ne _ (by rintro rfl; exact hr hd) x
  rcases exec_next_cases h with
    ⟨c, rfl⟩ | ⟨rd, v, neg, hd, rfl⟩ | ⟨rd, v, c, hd, ho, rfl⟩ | ⟨v, neg, ho, rfl⟩ | ⟨a, b, ho, rfl⟩
  · simp
  · simpa using others _ hd
  · refine ⟨others _ hd, fun _ => rfl, fun hc => ?_, fun _ => ⟨rfl, rfl, rfl⟩, rfl, rfl, rfl, rfl, rfl⟩
    rcases ho with ho | ho | ho | ho <;> simp [ho] at hc
  · refine ⟨fun _ _ => rfl, fun hw => ?_, fun _ => rfl, fun _ => ⟨rfl, rfl, rfl⟩, rfl, rfl, rfl, rfl, rfl⟩
    rcases ho with ho | ho <;> simp [ho] at hw
  · exact ⟨fun _ _ => rfl, fun _ => rfl, fun _ => rfl, fun hc => absurd ho hc, rfl, rfl, rfl, rfl, rfl⟩

/-- Ending a command in an element register does not touch W. -/
theorem State.finishElem_withWide {rd : Reg} {x : Except ErrCode Nat} (w : LimbReg) (h : s.finishElem rd x = .next t) :
    State.finishElem { s with w := w } rd x = .next { t with w := w } := by
  cases x <;> cases h <;> rfl

/-- Ending a signed command does not touch W. -/
theorem State.finishSigned_withWide {rd : Reg} {v : Int} (w : LimbReg) (h : s.finishSigned rd v = .next t) :
    State.finishSigned { s with w := w } rd v = .next { t with w := w } := by
  unfold State.finishSigned at h ⊢
  split at h
  · cases h; exact if_pos ‹_›
  · cases h; exact if_neg ‹_›

/-- MULW and SMULW overwrite W, so they leave the same state whatever it held. -/
theorem exec_withWide_of_writesWide {i : Instr} (hi : i.op ∈ [Op.mulw, .smulw]) (w : LimbReg) (h : exec i s = .next t) :
    exec i { s with w := w } = .next t := by
  cases i with
  | mulw rs1 rs2 => exact h
  | smulw rs1 rs2 => exact h
  | _ => simp [Instr.op] at hi

/-- A command that neither reads nor writes W does the same for every W, and leaves it. -/
theorem exec_withWide_of_ignoresWide {i : Instr} (hr : readsWide i = false) (hw : i.op ∉ [Op.mulw, .smulw]) (w : LimbReg)
    (h : exec i s = .next t) : exec i { s with w := w } = .next { t with w := w } := by
  cases i with
  | mulw | smulw => simp [Instr.op] at hw
  | reduce | sfoldw => cases hr
  | add | sub | cmp | shl1 | shr1 | sfold | norm => cases h; rfl
  | sadd | ssub => exact State.finishSigned_withWide w h
  | fadd | fsub | fneg | fmul | finv | fdiv | fpow => exact State.finishElem_withWide w h

/-- Settles O37: MULW and SMULW overwrite W, and the others leave what they find there. -/
theorem otherCommandsIgnoreWide : Obligations.OtherCommandsIgnoreWide := by
  intro i s t w hr h
  by_cases hw : i.op ∈ [Op.mulw, .smulw]
  · exact ⟨t, exec_withWide_of_writesWide hw w h, rfl, rfl, rfl, fun _ => rfl, fun hn => absurd hw hn⟩
  · exact ⟨_, exec_withWide_of_ignoresWide hr hw w h, rfl, rfl, rfl, fun hn => absurd hn hw, fun _ => rfl⟩

end Sys2Proof.Machine
end

section
/-!
PROOF. The order flags LT, EQ and GT (10_state.md R26).
-/

namespace Sys2Proof.Machine

variable {s t : State}

/-- How many of LT, EQ and GT are 1. -/
abbrev Flags.orderCount (f : Flags) : Nat := [f.lt, f.eq, f.gt].count true

/-- Two numbers stand in exactly one order. -/
theorem State.orderCount_setOrder (s : State) (a b : Nat) : (s.setOrder a b).flags.orderCount = 1 := by
  rcases Nat.lt_trichotomy a b with hlt | rfl | hgt
  · simp [hlt, hlt.ne, hlt.le]
  · simp
  · simp [hgt, hgt.ne', hgt.le]

theorem exec_keeps_orderCount {i : Instr} (hs : s.flags.orderCount = 1) (h : exec i s = .next t) :
    t.flags.orderCount = 1 := by
  rcases exec_next_cases h with
    ⟨c, rfl⟩ | ⟨rd, v, neg, -, rfl⟩ | ⟨rd, v, c, -, -, rfl⟩ | ⟨v, neg, -, rfl⟩ | ⟨a, b, -, rfl⟩
  case inr.inr.inr.inr => exact s.orderCount_setOrder a b
  all_goals exact hs

theorem engineTurn_keeps_orderCount (hs : s.flags.orderCount = 1) (h : engineTurn s = .next t) :
    t.flags.orderCount = 1 := by
  rcases engineTurn_next_cases h with ⟨-, rfl⟩ | ⟨v, -, ⟨r, -, rfl⟩ | ⟨i, -, hx⟩⟩
  · exact hs
  · exact hs
  · exact exec_keeps_orderCount hs hx

/-- No host access writes FLAGS (20_memory.md R57). -/
theorem hostAccess_keeps_flags {a : Access} (h : hostAccess a s = .next t) : t.flags = s.flags := by
  rcases hostAccess_next h with
    ⟨r, rfl⟩ | rfl | rfl | ⟨-, -, v, rfl⟩ | ⟨-, ⟨v, rfl⟩ | ⟨i, j, v, rfl⟩ | ⟨j, v, rfl⟩⟩ <;> rfl

/-- Settles O38: a CMP sets one order, reset none, and no other step but a CMP's writes them. -/
theorem oneOrderFlagAfterCmp : Obligations.OneOrderFlagAfterCmp := by
  refine ⟨?_, fun _ => rfl, ?_⟩
  · intro s t rs1 rs2 h
    cases h
    exact s.orderCount_setOrder _ _
  · intro s t h hs hreset
    rcases step_next_cases h with ⟨-, hturn⟩ | ⟨x, rest, hi, hinput⟩
    · exact engineTurn_keeps_orderCount hs hturn
    · cases x with
      | access a => rw [hostAccess_keeps_flags hinput]; exact hs
      | engineTurn => exact engineTurn_keeps_orderCount (s := { s with inputs := rest }) hs hinput
      | rstLevel level =>
        obtain ⟨rfl, hrst⟩ := hreset level rest hi
        cases hinput
        rw [State.setRst_idle { s with inputs := rest } hrst]
        exact hs

end Sys2Proof.Machine
end

section
/-!
SUPPORT. The words the host reads that hold single bits (10_state.md R25, R32), and the slot at an offset of the window.
-/

namespace Sys2Proof.Machine

variable {s t : State}

/-- Bit i of the number of a list of bits is the list's entry i, 0 past its end. -/
theorem testBit_bitsToNat (l : List Bool) (i : Nat) : (bitsToNat l).testBit i = l.getD i false := by
  induction l generalizing i with
  | nil => simp [bitsToNat]
  | cons b rest ih =>
    cases i with
    | zero => cases b <;> simp [bitsToNat, Nat.testBit_zero]
    | succ i =>
      have hhalf : (b.toNat + 2 * bitsToNat rest) / 2 = bitsToNat rest := by
        have hb := b.toNat_lt
        omega
      rw [bitsToNat, Nat.testBit_succ, hhalf, ih, List.getD_cons_succ]

/-- Bit i of the word of a list of at most 64 bits. -/
theorem getLsbD_ofNat_bitsToNat {l : List Bool} (hl : l.length ≤ 64) (i : Nat) :
    (BitVec.ofNat 64 (bitsToNat l)).getLsbD i = l.getD i false := by
  rw [BitVec.getLsbD_ofNat, testBit_bitsToNat]
  by_cases hi : i < 64
  · simp [hi]
  · simp [hi, List.getElem?_eq_none (show l.length ≤ i by omega)]

/-- The bits of such a word above the list read 0. -/
theorem extractLsb'_ofNat_bitsToNat {l : List Bool} (hl : l.length ≤ 64) (len : Nat) :
    (BitVec.ofNat 64 (bitsToNat l)).extractLsb' l.length len = 0 := by
  apply BitVec.eq_of_getLsbD_eq
  intro i hi
  rw [BitVec.getLsbD_extractLsb', getLsbD_ofNat_bitsToNat hl]
  simp

/-- The bits of SIGNS (10_state.md R32). -/
def State.signBits (s : State) : List Bool := s.e.toList.map LimbReg.sgn ++ [s.w.sgn]

@[simp] theorem State.length_signBits (s : State) : s.signBits.length = 9 := by simp [State.signBits]

theorem State.getD_signBits_reg (s : State) (i : Reg) : s.signBits.getD i false = (s.e.get i).sgn := by
  simp [State.signBits, Vector.get_eq_getElem]

theorem State.getD_signBits_wide (s : State) : s.signBits.getD 8 false = s.w.sgn := by
  simp [State.signBits]

theorem State.signsWord_eq (s : State) : s.signsWord = BitVec.ofNat 64 (bitsToNat s.signBits) := rfl

theorem State.signsWord_getLsbD (s : State) (i : Nat) : s.signsWord.getLsbD i = s.signBits.getD i false :=
  getLsbD_ofNat_bitsToNat (l := s.signBits) (by simp) i

theorem State.signsWord_high (s : State) : s.signsWord.extractLsb' 9 55 = 0 := by
  simpa [State.signsWord_eq] using extractLsb'_ofNat_bitsToNat (l := s.signBits) (by simp) 55

/-- An access of 8 bytes at an offset of a slot reaches it when `rst` is deasserted. -/
theorem State.target_of_slotAt {a : Access} {off : Nat} {r : WinReg} (hrst : s.rst = false) (hw : a.width = 8)
    (ha : a.addr = s.inst.facBase + off) (hoff : off < windowBytes) (h8 : off % 8 = 0)
    (hslot : slotAt s.inst.variant off = some r) : s.target a = .ok r := by
  have hsub : a.addr - s.inst.facBase = off := by omega
  exact State.target_ok_iff.mpr ⟨by omega, by omega, hrst, hw, hsub ▸ h8, hsub ▸ hslot⟩

/-- While BUSY = 1 no access of SIGNS is answered (20_memory.md R58). -/
theorem hostAccess_signs_ne_next {a : Access} (ht : s.target a = .ok .signs) (hb : s.status.busy = true) :
    hostAccess a s ≠ .next t := by
  cases a <;> simp [hostAccess, ht, State.hostRead, State.hostWrite, State.storeIdle, WinReg.readableBusy, hb]

end Sys2Proof.Machine
end

section
/-!
PROOF. The values after reset (10_state.md R40), and the accesses of SIGNS, CMD and FLAGS (R25, R29, R32).
-/

namespace Sys2Proof.Machine

open Sys2Proof.Config

/-- No limb is written after reset (10_state.md R41). -/
theorem LimbReg.reset_unwritten (n : Nat) : ∀ x ∈ (LimbReg.reset n).limbs, x.written = false := by
  intro x hx
  rw [List.eq_of_mem_replicate hx]

/-- ID, CONFIG, P and MU read the same in all states of one FAC (10_state.md R30, R31, R33). -/
theorem State.readReg_constant {s u : State} {r : WinReg} (hinst : s.inst = u.inst)
    (hr : r = .id ∨ r = .config ∨ (∃ j, r = .p j) ∨ ∃ j, r = .mu j) : s.readReg r = u.readReg r := by
  rcases hr with rfl | rfl | ⟨j, rfl⟩ | ⟨j, rfl⟩ <;> simp [State.readReg, hinst]

theorem State.signsWord_resetOf (c : Inst) : (State.resetOf c).signsWord = 0 := by
  simp [State.signsWord, LimbReg.reset, List.replicate, bitsToNat]

/-- Settles O43, field by field. -/
theorem resetValues : Obligations.ResetValues := by
  intro c
  refine ⟨fun i => ?_, by simp, LimbReg.reset_unwritten _, rfl, rfl, rfl, State.signsWord_resetOf c, rfl, rfl, ?_⟩
  · rw [State.resetOf_e, regs_get_replicate]
    exact ⟨LimbReg.length_reset _, LimbReg.reset_unwritten _, rfl⟩
  · intro s r hs hr
    exact State.readReg_constant hs.symm hr

/-- Settles O54: the slot at 0x028 is SIGNS, read and stored bit by bit; while BUSY = 1 nothing answers there. -/
theorem signsReadAndWrite : Obligations.SignsReadAndWrite := by
  intro s rest hrst
  refine ⟨fun hb hi => ?_, fun v hb hi => ?_, fun a hb hi ha => ?_⟩
  · have ht : s.target (.read (s.inst.facBase + 0x028) 8) = .ok .signs :=
      State.target_of_slotAt hrst rfl rfl (by decide) (by decide) rfl
    refine ⟨s.signsWord, step_read hi ht (.inl hb), fun i => ?_, ?_, s.signsWord_high⟩
    · rw [s.signsWord_getLsbD, s.getD_signBits_reg]
    · rw [s.signsWord_getLsbD, s.getD_signBits_wide]
  · have ht : s.target (.write (s.inst.facBase + 0x028) 8 v) = .ok .signs :=
      State.target_of_slotAt hrst rfl rfl (by decide) (by decide) rfl
    refine ⟨(State.setSigns { s with inputs := rest } v).noData, ?_, rfl, fun i => by simp, rfl⟩
    rw [step_write hi ht]
    simp [State.hostWrite, State.storeIdle, hb]
  · rcases step_access_cases hi (by omega) (by omega) with ⟨t, h⟩ | ⟨why, h, -⟩
    · rw [step_cons hi] at h
      obtain ⟨r, hr⟩ := exists_target_of_hostAccess_next h
      obtain ⟨-, -, -, hw, -⟩ := State.target_ok_iff.mp hr
      exact absurd h (hostAccess_signs_ne_next
        (State.target_of_slotAt hrst hw ha (by decide) (by decide) rfl) hb)
    · exact ⟨why, h⟩

/-- Settles O55: the slots at 0x010 and 0x020 are CMD and FLAGS. -/
theorem cmdAndFlagsReads : Obligations.CmdAndFlagsReads := by
  intro s rest hrst
  refine ⟨fun hi => ?_, fun hb hi => ?_⟩
  · exact step_read hi (r := .cmd) (State.target_of_slotAt hrst rfl rfl (by decide) (by decide) rfl) (.inr rfl)
  · have ht : s.target (.read (s.inst.facBase + 0x020) 8) = .ok .flags :=
      State.target_of_slotAt hrst rfl rfl (by decide) (by decide) rfl
    have bit (i : Nat) : s.flagsWord.getLsbD i = [s.flags.c, s.flags.lt, s.flags.eq, s.flags.gt].getD i false :=
      getLsbD_ofNat_bitsToNat (by simp) i
    exact ⟨s.flagsWord, step_read hi ht (.inl hb), bit 0, bit 1, bit 2, bit 3, extractLsb'_ofNat_bitsToNat (by simp) 60⟩

end Sys2Proof.Machine
end

section
/-!
SUPPORT. The window map in both directions (20_memory.md R52), and when an access reaches a slot, by the slot's place in the map.
-/

namespace Sys2Proof.Machine

open Sys2Proof.Config

variable {s t : State} {c : Variant} {a : Access} {rest : List Input}

theorem WinReg.offset_mod_eight (r : WinReg) : r.offset % 8 = 0 := by
  cases r with
  | id | config | cmd | status | flags | signs => rfl
  | e i j | w j | p j | mu j => simp only [WinReg.offset]; omega

/-- Every present slot lies in the window (20_memory.md R50, R52). -/
theorem WinReg.offset_lt {r : WinReg} (hp : r.present c = true) : r.offset < windowBytes := by
  have hn := n_cases c
  unfold windowBytes
  cases r with
  | id | config | cmd | status | flags | signs => decide
  | e i j | w j | p j | mu j =>
    simp only [WinReg.present, decide_eq_true_eq] at hp
    simp only [WinReg.offset]
    omega

/-- No slot stands between SIGNS and the limbs of E (20_memory.md R53). -/
theorem slotAt_gap {off : Nat} (h : 0x030 ≤ off) (h' : off < 0x100) : slotAt c off = none := by
  unfold slotAt
  iterate 6 rw [if_neg (by omega)]
  rw [if_pos h']

/-- The window holds the limbs of E from 0x100 on. -/
theorem slotAt_elems {off : Nat} (h : 0x100 ≤ off) (h' : off < 0x300) :
    slotAt c off = if (off - 0x100) % 0x40 / 8 < c.n then
      some (.e (Fin.ofNat 8 ((off - 0x100) / 0x40)) ((off - 0x100) % 0x40 / 8)) else none := by
  unfold slotAt
  iterate 7 rw [if_neg (by omega)]
  rw [if_pos h']

/-- The limbs of W stand from 0x300 on. -/
theorem slotAt_wide {off : Nat} (h : 0x300 ≤ off) (h' : off < 0x400) :
    slotAt c off = if (off - 0x300) / 8 < 2 * c.n then some (.w ((off - 0x300) / 8)) else none := by
  unfold slotAt
  iterate 8 rw [if_neg (by omega)]
  rw [if_pos h']

/-- The limbs of P stand from 0x400 on. -/
theorem slotAt_modulus {off : Nat} (h : 0x400 ≤ off) (h' : off < 0x440) :
    slotAt c off = if (off - 0x400) / 8 < c.n then some (.p ((off - 0x400) / 8)) else none := by
  unfold slotAt
  iterate 9 rw [if_neg (by omega)]
  rw [if_pos h']

/-- The limbs of MU stand from 0x440 on. -/
theorem slotAt_mu {off : Nat} (h : 0x440 ≤ off) :
    slotAt c off = if (off - 0x440) / 8 < c.n + 1 then some (.mu ((off - 0x440) / 8)) else none := by
  unfold slotAt
  iterate 10 rw [if_neg (by omega)]

/-- The map finds a present slot at the slot's offset. -/
theorem slotAt_offset {r : WinReg} (hp : r.present c = true) : slotAt c r.offset = some r := by
  have hn := n_cases c
  cases r with
  | id | config | cmd | status | flags | signs => rfl
  | e i j =>
    have hj : j < c.n := of_decide_eq_true hp
    have hlimb : (0x100 + 0x40 * i.val + 8 * j - 0x100) % 0x40 / 8 = j := by omega
    have hreg : (0x100 + 0x40 * i.val + 8 * j - 0x100) / 0x40 = i := by omega
    simp only [WinReg.offset]
    rw [slotAt_elems (by omega) (by omega), hlimb, hreg, if_pos hj, Fin.ofNat_val_eq_self]
  | w j =>
    have hj : j < 2 * c.n := of_decide_eq_true hp
    have hlimb : (0x300 + 8 * j - 0x300) / 8 = j := by omega
    simp only [WinReg.offset]
    rw [slotAt_wide (by omega) (by omega), hlimb, if_pos hj]
  | p j =>
    have hj : j < c.n := of_decide_eq_true hp
    have hlimb : (0x400 + 8 * j - 0x400) / 8 = j := by omega
    simp only [WinReg.offset]
    rw [slotAt_modulus (by omega) (by omega), hlimb, if_pos hj]
  | mu j =>
    have hj : j < c.n + 1 := of_decide_eq_true hp
    have hlimb : (0x440 + 8 * j - 0x440) / 8 = j := by omega
    simp only [WinReg.offset]
    rw [slotAt_mu (by omega), hlimb, if_pos hj]

/-- A slot that the map holds under its condition, at its own offset. -/
theorem offset_eq_of_ite {p : Prop} [Decidable p] {off : Nat} {q r : WinReg} (h : (if p then some q else none) = some r)
    (hoff : off = q.offset) (hp : p → q.present c = true) : off = r.offset ∧ r.present c = true := by
  obtain ⟨hc, hq⟩ := Option.ite_none_right_eq_some.mp h
  cases hq
  exact ⟨hoff, hp hc⟩

/-- What the map finds at a multiple of 8 is a present slot at its own offset. -/
theorem offset_eq_of_slotAt {off : Nat} {r : WinReg} (h8 : off % 8 = 0) (h : slotAt c off = some r) :
    off = r.offset ∧ r.present c = true := by
  obtain h1 | ⟨h1, h2⟩ | ⟨h1, h2⟩ | ⟨h1, h2⟩ | ⟨h1, h2⟩ | h1 : off < 0x030 ∨ (0x030 ≤ off ∧ off < 0x100) ∨
      (0x100 ≤ off ∧ off < 0x300) ∨ (0x300 ≤ off ∧ off < 0x400) ∨ (0x400 ≤ off ∧ off < 0x440) ∨ 0x440 ≤ off := by omega
  · obtain rfl | rfl | rfl | rfl | rfl | rfl :
        off = 0x000 ∨ off = 0x008 ∨ off = 0x010 ∨ off = 0x018 ∨ off = 0x020 ∨ off = 0x028 := by omega
    all_goals cases h; exact ⟨rfl, rfl⟩
  · rw [slotAt_gap h1 h2] at h
    cases h
  · rw [slotAt_elems h1 h2] at h
    exact offset_eq_of_ite h (by simp only [WinReg.offset, Fin.val_ofNat]; omega) decide_eq_true
  · rw [slotAt_wide h1 h2] at h
    exact offset_eq_of_ite h (by simp only [WinReg.offset]; omega) decide_eq_true
  · rw [slotAt_modulus h1 h2] at h
    exact offset_eq_of_ite h (by simp only [WinReg.offset]; omega) decide_eq_true
  · rw [slotAt_mu h1] at h
    exact offset_eq_of_ite h (by simp only [WinReg.offset]; omega) decide_eq_true

/-- An access reaches a slot when `rst` is deasserted, it is 8 bytes wide and at the slot's address, and the slot is present
(20_memory.md R51 to R53). -/
theorem State.target_ok_iff_present {r : WinReg} :
    s.target a = .ok r ↔ s.rst = false ∧ a.width = 8 ∧ a.addr = s.inst.facBase + r.offset ∧
      r.present s.inst.variant = true := by
  constructor
  · intro h
    obtain ⟨hlow, -, hrst, hw, h8, hslot⟩ := State.target_ok_iff.mp h
    obtain ⟨hoff, hp⟩ := offset_eq_of_slotAt h8 hslot
    exact ⟨hrst, hw, by omega, hp⟩
  · rintro ⟨hrst, hw, ha, hp⟩
    exact State.target_of_slotAt hrst hw ha (WinReg.offset_lt hp) r.offset_mod_eight (slotAt_offset hp)

/-- A step that reads a present slot at its address. -/
theorem step_read_present (r : WinReg) {addr : Nat} (hi : s.inputs = .access (.read addr 8) :: rest) (hrst : s.rst = false)
    (ha : addr = s.inst.facBase + r.offset) (hp : r.present s.inst.variant = true)
    (hb : s.status.busy = false ∨ r.readableBusy = true) :
    step s = .next { s with inputs := rest, rdata := some (s.readReg r) } :=
  step_read hi (State.target_ok_iff_present.mpr ⟨hrst, rfl, ha, hp⟩) hb

/-- A step that writes a present slot at its address. -/
theorem step_write_present (r : WinReg) {addr : Nat} {v : Word} (hi : s.inputs = .access (.write addr 8 v) :: rest)
    (hrst : s.rst = false) (ha : addr = s.inst.facBase + r.offset) (hp : r.present s.inst.variant = true) :
    step s = State.hostWrite { s with inputs := rest } (.write addr 8 v) v r :=
  step_write hi (State.target_ok_iff_present.mpr ⟨hrst, rfl, ha, hp⟩)

/-- An access to the window that is not answered gets a bus error, and the FAC stays as it is (20_memory.md R59). -/
theorem step_refused (hi : s.inputs = .access a :: rest) (h1 : s.inst.facBase ≤ a.addr)
    (h2 : a.addr < s.inst.facBase + 4096) (h : ∀ t, hostAccess a { s with inputs := rest } ≠ .next t) :
    ∃ why, step s = .fault (.hostBusError a why) ∧ s.afterAccess a = s := by
  rcases step_access_cases hi h1 h2 with ⟨t, ht⟩ | hfault
  · rw [step_cons hi] at ht
    exact absurd ht (h t)
  · exact hfault

theorem State.writeCmd_busy {v : Word} (hb : s.status.busy = true) :
    s.writeCmd a v = .fault (.hostBusError a .busy) := if_pos hb

theorem State.writeCmd_error {v : Word} (hb : s.status.busy = false) (herr : s.status.err = true) :
    s.writeCmd a v = .next s.noData := by simp [State.writeCmd, hb, herr]

theorem State.writeCmd_accept {v : Word} (hb : s.status.busy = false) (herr : s.status.err = false) :
    s.writeCmd a v = .next (s.accept v).noData := by simp [State.writeCmd, hb, herr]

/-- While idle a store is done and returns no data (20_memory.md R55, R58). -/
theorem State.storeIdle_idle {u : State} (hb : s.status.busy = false) : s.storeIdle a u = .next u.noData := by
  simp [State.storeIdle, hb]

/-- A STATUS write changes ERR and ERRCODE alone, and these only with bit 2 = 1 (20_memory.md R56). -/
theorem State.writeStatus_eq (s : State) (v : Word) :
    s.writeStatus v = .next { s with
      status := if v.getLsbD 2 then { s.status with err := false, errcode := 0 } else s.status, rdata := none } := by
  unfold State.writeStatus
  split <;> rfl

/-- A write to ID, CONFIG, FLAGS, a P limb or an MU limb is never answered (20_memory.md R57). -/
theorem hostAccess_readOnly_ne_next {addr width : Nat} {v : Word} {r : WinReg}
    (ht : s.target (.write addr width v) = .ok r)
    (hr : r = .id ∨ r = .config ∨ r = .flags ∨ (∃ j, r = .p j) ∨ ∃ j, r = .mu j) :
    hostAccess (.write addr width v) s ≠ .next t := by
  unfold hostAccess
  rw [ht]
  rcases hr with rfl | rfl | rfl | ⟨j, rfl⟩ | ⟨j, rfl⟩ <;> exact nofun

/-- While BUSY = 1 an answered access is a read of a slot readable then, or a write to STATUS (20_memory.md R58). -/
theorem hostAccess_next_of_busy (hb : s.status.busy = true) (h : hostAccess a s = .next t) :
    ∃ r, s.target a = .ok r ∧ ((∃ addr width, a = .read addr width ∧ r.readableBusy = true) ∨
      ∃ addr width v, a = .write addr width v ∧ r = .status) := by
  obtain ⟨r, hr⟩ := exists_target_of_hostAccess_next h
  refine ⟨r, hr, ?_⟩
  unfold hostAccess at h
  rw [hr] at h
  cases a with
  | read addr width =>
    refine .inl ⟨addr, width, rfl, ?_⟩
    cases hread : r.readableBusy with
    | true => rfl
    | false => simp [State.hostRead, hb, hread] at h
  | write addr width v =>
    refine .inr ⟨addr, width, v, rfl, ?_⟩
    cases r with
    | status => rfl
    | id | config | flags | p | mu => cases h
    | cmd => simp [State.hostWrite, State.writeCmd, hb] at h
    | signs | e | w => simp [State.hostWrite, State.storeIdle, hb] at h

/-- Where the slots stand that may be read while BUSY = 1 (20_memory.md R52, R58). -/
theorem exists_readableBusy_iff {off : Nat} :
    (∃ r : WinReg, r.readableBusy = true ∧ r.present c = true ∧ r.offset = off) ↔
      off = 0x000 ∨ off = 0x008 ∨ off = 0x010 ∨ off = 0x018 ∨ (∃ j < c.n, off = 0x400 + 8 * j) ∨
        ∃ j < c.n + 1, off = 0x440 + 8 * j := by
  constructor
  · rintro ⟨r, hb, hp, rfl⟩
    cases r with
    | id | config | cmd | status => simp [WinReg.offset]
    | flags | signs | e | w => cases hb
    | p j => exact .inr (.inr (.inr (.inr (.inl ⟨j, of_decide_eq_true hp, rfl⟩))))
    | mu j => exact .inr (.inr (.inr (.inr (.inr ⟨j, of_decide_eq_true hp, rfl⟩))))
  · rintro (rfl | rfl | rfl | rfl | ⟨j, hj, rfl⟩ | ⟨j, hj, rfl⟩)
    · exact ⟨.id, rfl, rfl, rfl⟩
    · exact ⟨.config, rfl, rfl, rfl⟩
    · exact ⟨.cmd, rfl, rfl, rfl⟩
    · exact ⟨.status, rfl, rfl, rfl⟩
    · exact ⟨.p j, rfl, decide_eq_true hj, rfl⟩
    · exact ⟨.mu j, rfl, decide_eq_true hj, rfl⟩

end Sys2Proof.Machine
end

section
/-!
PROOF. The window map and the accesses it refuses (20_memory.md R51 to R53, R57), and the accesses answered while a command
runs (R58).
-/

namespace Sys2Proof.Machine

/-- Settles O46: the map answers present slots at their offsets only, and every present slot. -/
theorem windowMapIsExact : Obligations.WindowMapIsExact := by
  intro c off r _ h8
  constructor
  · exact offset_eq_of_slotAt h8
  · rintro ⟨rfl, hp⟩
    exact slotAt_offset hp

/-- Settles O47: an answered access is 8 bytes wide and at a present slot's address, a multiple of 8 past the window's. -/
theorem oddAndReservedAccessesRefused : Obligations.OddAndReservedAccessesRefused := by
  intro s a rest hi h1 h2 hodd
  refine step_refused hi h1 h2 fun t h => ?_
  obtain ⟨r, hr⟩ := exists_target_of_hostAccess_next h
  obtain ⟨-, hw, ha, hp⟩ := State.target_ok_iff_present.mp hr
  rcases hodd with hwidth | h8 | hreserved
  · exact hwidth hw
  · have hr8 := r.offset_mod_eight
    simp only at ha
    omega
  · exact hreserved r hp ha

/-- Settles O51: the slots at these offsets are read-only, and out of reset the access reaches them. -/
theorem readOnlyWritesRefused : Obligations.ReadOnlyWritesRefused := by
  intro s rest off v hi hoff
  have slot : ∃ r : WinReg, r.present s.inst.variant = true ∧ off = r.offset ∧
      (r = .id ∨ r = .config ∨ r = .flags ∨ (∃ j, r = .p j) ∨ ∃ j, r = .mu j) := by
    rcases hoff with rfl | rfl | rfl | ⟨j, hj, rfl⟩ | ⟨j, hj, rfl⟩
    · exact ⟨.id, rfl, rfl, .inl rfl⟩
    · exact ⟨.config, rfl, rfl, .inr (.inl rfl)⟩
    · exact ⟨.flags, rfl, rfl, .inr (.inr (.inl rfl))⟩
    · exact ⟨.p j, decide_eq_true hj, rfl, .inr (.inr (.inr (.inl ⟨j, rfl⟩)))⟩
    · exact ⟨.mu j, decide_eq_true hj, rfl, .inr (.inr (.inr (.inr ⟨j, rfl⟩)))⟩
  obtain ⟨r, hp, rfl, hr⟩ := slot
  have hlt := WinReg.offset_lt hp
  refine step_refused hi (Nat.le_add_right _ _) (Nat.add_lt_add_left hlt _) fun t h => ?_
  exact hostAccess_readOnly_ne_next
    (State.target_ok_iff_present.mpr ⟨rst_of_hostAccess_next h, rfl, rfl, hp⟩) hr h

/-- Settles O52: a busy FAC answers exactly the reads of the slots readable then and the writes to STATUS. -/
theorem busyAccesses : Obligations.BusyAccesses := by
  intro s a rest hrst hb hi h1 h2
  constructor
  · rintro (⟨off, rfl, hoff⟩ | ⟨v, rfl⟩)
    · obtain ⟨r, hread, hp, rfl⟩ := exists_readableBusy_iff.mpr hoff
      exact ⟨_, step_read_present r hi hrst rfl hp (.inr hread)⟩
    · exact ⟨_, (step_write_present .status hi hrst rfl rfl).trans (State.writeStatus_eq _ v)⟩
  · intro hnot
    refine step_refused hi h1 h2 fun t h => hnot ?_
    obtain ⟨r, ht, hr⟩ := hostAccess_next_of_busy (s := { s with inputs := rest }) hb h
    obtain ⟨-, hw, ha, hp⟩ := State.target_ok_iff_present.mp ht
    rcases hr with ⟨addr, width, rfl, hread⟩ | ⟨addr, width, v, rfl, rfl⟩
    · cases hw
      cases ha
      exact .inl ⟨r.offset, rfl, exists_readableBusy_iff.mp ⟨r, hread, hp, rfl⟩⟩
    · cases hw
      cases ha
      exact .inr ⟨v, rfl⟩

end Sys2Proof.Machine
end

section
/-!
SUPPORT. STATUS as a word of single bits (10_state.md R28).
-/

namespace Sys2Proof.Machine

variable {s : State}

theorem bitsToNat_append (l m : List Bool) : bitsToNat (l ++ m) = bitsToNat l + 2 ^ l.length * bitsToNat m := by
  induction l with
  | nil => simp [bitsToNat]
  | cons b rest ih =>
    rw [List.cons_append, bitsToNat, bitsToNat, ih, List.length_cons]
    ring

/-- The bits of a 4-bit code give it back. -/
theorem bitsToNat_code (x : BitVec 4) :
    bitsToNat [x.getLsbD 0, x.getLsbD 1, x.getLsbD 2, x.getLsbD 3] = x.toNat := by
  revert x
  decide

/-- The bits of STATUS (10_state.md R28): bit 3 is reserved. -/
def State.statusBits (s : State) : List Bool :=
  [s.status.busy, s.status.done, s.status.err, false] ++
    [s.status.errcode.getLsbD 0, s.status.errcode.getLsbD 1, s.status.errcode.getLsbD 2, s.status.errcode.getLsbD 3]

theorem State.statusWord_eq (s : State) : s.statusWord = BitVec.ofNat 64 (bitsToNat s.statusBits) := by
  rw [State.statusBits, bitsToNat_append, bitsToNat_code]
  rfl

theorem State.statusWord_getLsbD (s : State) (i : Nat) : s.statusWord.getLsbD i = s.statusBits.getD i false := by
  rw [s.statusWord_eq]
  exact getLsbD_ofNat_bitsToNat (l := s.statusBits) (by simp [State.statusBits]) i

theorem State.statusWord_errcode (s : State) : s.statusWord.extractLsb' 4 4 = s.status.errcode := by
  apply BitVec.eq_of_getLsbD_eq
  intro i hi
  rw [BitVec.getLsbD_extractLsb', s.statusWord_getLsbD]
  obtain rfl | rfl | rfl | rfl : i = 0 ∨ i = 1 ∨ i = 2 ∨ i = 3 := by omega
  all_goals rfl

theorem State.statusWord_high (s : State) : s.statusWord.extractLsb' 8 56 = 0 := by
  rw [s.statusWord_eq]
  exact extractLsb'_ofNat_bitsToNat (l := s.statusBits) (by simp [State.statusBits]) 56

end Sys2Proof.Machine
end

section
/-!
PROOF. What the accesses of the constants, STATUS, CMD and the limbs do (20_memory.md R54 to R56, R60).
-/

namespace Sys2Proof.Machine

open Sys2Proof.Config

variable {s : State}

theorem configWord_fac256 : configWord .fac256 = 0x0000010000082004 := rfl

/-- CONFIG of FAC480, whatever its open parameters are (10_state.md R31). -/
theorem configWord_fac480 (p480 bound480 : Nat) : configWord (.fac480 p480 bound480) = 0x000001E001083C08 := by
  simp only [configWord, Variant.n, Variant.bytew, Variant.pbits, Variant.field, nreg]
  rfl

/-- Limb j of a value by a power of two (00_scope.md R4). -/
theorem limbOfVal_eq (v j : Nat) : limbOfVal v j = BitVec.ofNat 64 (v / 2 ^ (64 * j)) := by
  rw [limbOfVal, Nat.pow_mul]

/-- A step that reads a slot readable while BUSY = 1 brings back the slot's value, busy or not (20_memory.md R54, R58). -/
theorem step_read_value {rest : List Input} {off : Nat} {v : Word} (hrst : s.rst = false)
    (hi : s.inputs = .access (.read (s.inst.facBase + off) 8) :: rest) (r : WinReg) (hoff : off = r.offset)
    (hp : r.present s.inst.variant = true) (hb : r.readableBusy = true) (hval : s.readReg r = v) :
    step s = .next { s with inputs := rest, rdata := some v } :=
  hval ▸ step_read_present r hi hrst (congrArg _ hoff) hp (.inr hb)

/-- Settles O48: the slots at these offsets hold the constants and are readable while BUSY = 1. -/
theorem constantReads : Obligations.ConstantReads := by
  intro s rest off v hrst hi hv
  rcases hv with ⟨ho, rfl⟩ | ⟨ho, hc, rfl⟩ | ⟨ho, hc, rfl⟩ | ⟨j, hj, ho, rfl⟩ | ⟨j, hj, ho, rfl⟩
  · exact step_read_value hrst hi .id ho rfl rfl rfl
  · exact step_read_value hrst hi .config ho rfl rfl ((congrArg configWord hc).trans configWord_fac256)
  · cases hv : s.inst.variant with
    | fac256 => exact absurd hv hc
    | fac480 p480 bound480 =>
      exact step_read_value hrst hi .config ho rfl rfl ((congrArg configWord hv).trans (configWord_fac480 p480 bound480))
  · exact step_read_value hrst hi (.p j) ho (decide_eq_true hj) rfl (limbOfVal_eq _ j)
  · exact step_read_value hrst hi (.mu j) ho (decide_eq_true hj) rfl (limbOfVal_eq _ j)

/-- The limb of a register that holds a slot there. -/
theorem LimbReg.limb_of_getElem? {r : LimbReg} {j : Nat} {x : LimbSlot} (h : r.limbs[j]? = some x) : r.limb j = x.limb := by
  simp [LimbReg.limb, List.getD_eq_getElem?_getD, h]

/-- Settles O49: the slots there are the limbs of E and W, and a store while BUSY = 0 sets its limb and nothing else. -/
theorem limbReadsAndWrites : Obligations.LimbReadsAndWrites := by
  intro s rest j x v hrst hb _
  refine ⟨fun i hj hx => ?_, fun hj hx => ?_⟩
  · have hp : (WinReg.e i j).present s.inst.variant = true := decide_eq_true hj
    have ha : s.inst.facBase + 0x100 + 0x40 * i + 8 * j = s.inst.facBase + (WinReg.e i j).offset := by
      simp only [WinReg.offset]
      omega
    refine ⟨fun hi => ?_, fun hi => ?_⟩
    · exact LimbReg.limb_of_getElem? hx ▸ step_read_present (.e i j) hi hrst ha hp (.inl hb)
    · refine ⟨(State.setLimbE { s with inputs := rest } i j v).noData, ?_, ?_, ?_, fun r hr => ?_, rfl⟩
      · exact (step_write_present (.e i j) hi hrst ha hp).trans (State.storeIdle_idle hb)
      · simp [LimbReg.setLimb]
      · simp
      · simp [regs_get_set_of_ne _ hr]
  · have hp : (WinReg.w j).present s.inst.variant = true := decide_eq_true hj
    have ha : s.inst.facBase + 0x300 + 8 * j = s.inst.facBase + (WinReg.w j).offset := Nat.add_assoc ..
    refine ⟨fun hi => ?_, fun hi => ?_⟩
    · exact LimbReg.limb_of_getElem? hx ▸ step_read_present (.w j) hi hrst ha hp (.inl hb)
    · exact (step_write_present (.w j) hi hrst ha hp).trans (State.storeIdle_idle hb)

/-- Settles O50: STATUS is readable while BUSY = 1, and its write is the return from an error or nothing. -/
theorem statusReadAndClear : Obligations.StatusReadAndClear := by
  intro s rest hrst
  refine ⟨fun hi => ?_, fun v hi => ?_⟩
  · exact ⟨s.statusWord, step_read_present .status hi hrst rfl rfl (.inr rfl), s.statusWord_getLsbD 0,
      s.statusWord_getLsbD 1, s.statusWord_getLsbD 2, s.statusWord_getLsbD 3, s.statusWord_errcode, s.statusWord_high⟩
  · exact (step_write_present .status hi hrst rfl rfl).trans (State.writeStatus_eq _ v)

/-- Settles O53: a CMD write in each of its three cases. -/
theorem cmdWriteThreeCases : Obligations.CmdWriteThreeCases := by
  intro s v rest hrst hi
  have hstep : step s = State.writeCmd { s with inputs := rest } (.write (s.inst.facBase + 0x010) 8 v) v :=
    step_write_present .cmd hi hrst rfl rfl
  refine ⟨fun hb => ?_, fun hb herr => ?_, fun hb herr => ?_⟩
  · have hfault := hstep.trans (State.writeCmd_busy hb)
    exact ⟨hfault, State.afterAccess_of_fault (step_cons hi ▸ hfault)⟩
  · exact hstep.trans (State.writeCmd_error hb herr)
  · exact hstep.trans (State.writeCmd_accept hb herr)

end Sys2Proof.Machine
end

section
/-!
PROOF. Host accesses while a command runs do not disturb it (20_memory.md R58, 60_exceptions.md R205, 70_reset_and_hazards.md
R250): they change the data last read alone, which no command reads or writes.
-/

namespace Sys2Proof.Machine

variable {s t : State} {data : Option Word}

/-- With BUSY = 1 and no error recorded, an access changes the data last read alone. -/
theorem State.afterAccess_of_busy {a : Access} (hb : s.status.busy = true) (herr : s.status.err = false)
    (hcode : s.status.errcode = 0) : ∃ data, s.afterAccess a = { s with rdata := data } := by
  have hclear : s.clearError = s := by
    unfold State.clearError
    rw [← herr, ← hcode]
  unfold State.afterAccess
  cases h : hostAccess a s with
  | fault f | refused f => exact ⟨s.rdata, rfl⟩
  | next t =>
    rcases hostAccess_next h with ⟨r, rfl⟩ | rfl | rfl | ⟨hidle, -⟩ | ⟨hidle, -⟩
    · exact ⟨_, rfl⟩
    · exact ⟨none, rfl⟩
    · exact ⟨none, by rw [hclear]; rfl⟩
    · cases hb.symm.trans hidle
    · cases hb.symm.trans hidle

/-- So do any number of accesses, one after another. -/
theorem State.foldl_afterAccess_of_busy (accesses : List Access) (s : State) (hb : s.status.busy = true)
    (herr : s.status.err = false) (hcode : s.status.errcode = 0) :
    ∃ data, accesses.foldl State.afterAccess s = { s with rdata := data } := by
  induction accesses generalizing s with
  | nil => exact ⟨s.rdata, rfl⟩
  | cons a rest ih =>
    obtain ⟨data, hdata⟩ := State.afterAccess_of_busy (a := a) hb herr hcode
    rw [List.foldl_cons, hdata]
    exact ih { s with rdata := data } hb herr hcode

theorem State.finishElem_withData {rd : Reg} {x : Except ErrCode Nat} (h : s.finishElem rd x = .next t) :
    State.finishElem { s with rdata := data } rd x = .next { t with rdata := data } := by
  cases x <;> cases h <;> rfl

theorem State.finishSigned_withData {rd : Reg} {v : Int} (h : s.finishSigned rd v = .next t) :
    State.finishSigned { s with rdata := data } rd v = .next { t with rdata := data } := by
  unfold State.finishSigned at h ⊢
  split at h
  · cases h; exact if_pos ‹_›
  · cases h; exact if_neg ‹_›

/-- No command reads the data the host last read, or changes it. -/
theorem exec_withData {i : Instr} (h : exec i s = .next t) :
    exec i { s with rdata := data } = .next { t with rdata := data } := by
  cases i with
  | add | sub | mulw | cmp | shl1 | shr1 | smulw | sfold | sfoldw | norm => cases h; rfl
  | sadd | ssub => exact State.finishSigned_withData h
  | reduce | fadd | fsub | fneg | fmul | finv | fdiv | fpow => exact State.finishElem_withData h

theorem engineTurn_withData (h : engineTurn s = .next t) :
    engineTurn { s with rdata := data } = .next { t with rdata := data } := by
  have run {v : Word} (he : s.engine = .running v) :
      engineTurn { s with rdata := data } = runLatched v { s with rdata := data } := engineTurn_running he
  rcases engineTurn_next_cases h with ⟨he, rfl⟩ | ⟨v, he, ⟨r, hd, rfl⟩ | ⟨i, hd, hx⟩⟩
  · exact engineTurn_idle he
  · rw [run he, runLatched_illegal hd]
    rfl
  · rw [run he, runLatched_ok hd]
    exact exec_withData hx

/-- Settles O42: the accesses change the data last read alone, and the engine's turn does not look at it. -/
theorem accessesDoNotDisturbCommand : Obligations.AccessesDoNotDisturbCommand := by
  intro s t v accesses ⟨_, ⟨hcode, hbusy, _⟩, _, hengine, _⟩ he h
  have hb : s.status.busy = true := by
    simp only [State.engineOk, he, Bool.and_eq_true] at hengine
    exact hengine.1
  obtain ⟨data, hdata⟩ := State.foldl_afterAccess_of_busy accesses s hb (hbusy hb) (hcode (hbusy hb))
  exact ⟨data, hdata ▸ engineTurn_withData h⟩

end Sys2Proof.Machine
end

section
/-!
SUPPORT. The decoder and the encoder by their tables (30_encoding.md R81 to R83, R86 to R89): opcodes, the instruction of an
operation and its operands, the fields of a word, and what the decoder answers.
-/

namespace Sys2Proof

variable {f : Fields} {i : Instr} {o : Op} {v : Word}

/-! ## Opcodes, and the instruction of an operation -/

theorem Op.ofCode_code (o : Op) : Op.ofCode o.code = some o := by cases o <;> rfl

theorem Op.code_of_ofCode {n : Nat} (h : Op.ofCode n = some o) : n = o.code := by
  unfold Op.ofCode at h
  split at h <;> cases h <;> rfl

/-- No two operations share an opcode (30_encoding.md R86). -/
theorem Op.code_injective {o p : Op} (h : o.code = p.code) : o = p := by
  have hsome := o.ofCode_code
  rw [h, p.ofCode_code] at hsome
  exact (Option.some.inj hsome).symm

theorem Op.code_lt (o : Op) : o.code < 256 := by cases o <;> decide

@[simp] theorem Op.op_build (rd rs1 rs2 : Reg) (imm : Nat) (o : Op) : (o.build rd rs1 rs2 imm).op = o := by
  cases o <;> rfl

/-- An instruction's fields are its opcode and the operands its shape uses, 0 elsewhere (30_encoding.md R82). -/
theorem Op.fields_build (rd rs1 rs2 : Reg) (imm : Nat) (o : Op) :
    (o.build rd rs1 rs2 imm).fields =
      { op := o.code
        rd := if o.shape.usesRd then rd else 0
        rs1 := if o.shape.usesRs1 then rs1 else 0
        rs2 := if o.shape.usesRs2 then rs2 else 0
        imm := if o.shape.usesImm then imm else 0 } := by
  cases o <;> rfl

@[simp] theorem Instr.fields_op (i : Instr) : i.fields.op = i.op.code := by cases i <;> rfl

/-- An instruction is its operation with its fields as operands. -/
theorem Instr.build_fields (i : Instr) :
    i.op.build (Fin.ofNat 8 i.fields.rd) (Fin.ofNat 8 i.fields.rs1) (Fin.ofNat 8 i.fields.rs2) i.fields.imm = i := by
  cases i <;> simp [Instr.op, Instr.fields, Op.build]

/-- The one condition on an instruction is that its immediate fits 12 bits (30_encoding.md R81). -/
theorem Instr.wellFormed_iff (i : Instr) : i.wellFormed = true ↔ i.fields.imm < 4096 := by
  cases i <;> simp [Instr.wellFormed, Instr.fields]

/-! ## Legal fields -/

/-- Neither condition 3 nor condition 4 of 30_encoding.md R89 holds of the fields. -/
def Fields.Legal (sh : Shape) (f : Fields) : Prop := f.unusedNonzero sh = false ∧ f.badRegister sh = false

/-- Fields are legal when every register field names a register and every field the shape does not use is 0. -/
theorem Fields.legal_iff {sh : Shape} :
    f.Legal sh ↔
      (f.rd < 8 ∧ (sh.usesRd = false → f.rd = 0)) ∧ (f.rs1 < 8 ∧ (sh.usesRs1 = false → f.rs1 = 0)) ∧
        (f.rs2 < 8 ∧ (sh.usesRs2 = false → f.rs2 = 0)) ∧ (sh.usesImm = false → f.imm = 0) := by
  unfold Fields.Legal Fields.unusedNonzero Fields.badRegister
  cases sh <;> simp [Shape.usesRd, Shape.usesRs1, Shape.usesRs2, Shape.usesImm] <;> omega

/-- A field that is not used and not 0 is not legal (30_encoding.md R89, condition 3). -/
theorem Fields.not_legal_of_unused {sh : Shape}
    (h : (sh.usesRd = false ∧ f.rd ≠ 0) ∨ (sh.usesRs1 = false ∧ f.rs1 ≠ 0) ∨ (sh.usesRs2 = false ∧ f.rs2 ≠ 0) ∨
      (sh.usesImm = false ∧ f.imm ≠ 0)) : ¬f.Legal sh := by
  intro hl
  obtain ⟨⟨-, hrd⟩, ⟨-, hrs1⟩, ⟨-, hrs2⟩, himm⟩ := Fields.legal_iff.mp hl
  rcases h with ⟨hu, hn⟩ | ⟨hu, hn⟩ | ⟨hu, hn⟩ | ⟨hu, hn⟩
  · exact hn (hrd hu)
  · exact hn (hrs1 hu)
  · exact hn (hrs2 hu)
  · exact hn (himm hu)

/-- A used register field of 8 or more is not legal (30_encoding.md R89, condition 4). -/
theorem Fields.not_legal_of_register {sh : Shape}
    (h : (sh.usesRd = true ∧ 8 ≤ f.rd) ∨ (sh.usesRs1 = true ∧ 8 ≤ f.rs1) ∨ (sh.usesRs2 = true ∧ 8 ≤ f.rs2)) :
    ¬f.Legal sh := by
  intro hl
  obtain ⟨⟨hrd, -⟩, ⟨hrs1, -⟩, ⟨hrs2, -⟩, -⟩ := Fields.legal_iff.mp hl
  omega

/-- The family FieldsFit as one law (30_encoding.md R81, R82, R88). -/
theorem Instr.fieldsFit (i : Instr) : Laws.FieldsFit.Statement i :=
  match i with
  | .add rd rs1 rs2 => Laws.FieldsFit.add rd rs1 rs2
  | .sub rd rs1 rs2 => Laws.FieldsFit.sub rd rs1 rs2
  | .mulw rs1 rs2 => Laws.FieldsFit.mulw rs1 rs2
  | .cmp rs1 rs2 => Laws.FieldsFit.cmp rs1 rs2
  | .shl1 rd rs1 => Laws.FieldsFit.shl1 rd rs1
  | .shr1 rd rs1 => Laws.FieldsFit.shr1 rd rs1
  | .sadd rd rs1 rs2 => Laws.FieldsFit.sadd rd rs1 rs2
  | .ssub rd rs1 rs2 => Laws.FieldsFit.ssub rd rs1 rs2
  | .smulw rs1 rs2 => Laws.FieldsFit.smulw rs1 rs2
  | .sfold rd rs1 => Laws.FieldsFit.sfold rd rs1
  | .sfoldw rd => Laws.FieldsFit.sfoldw rd
  | .reduce rd => Laws.FieldsFit.reduce rd
  | .norm rd rs1 hint => Laws.FieldsFit.norm rd rs1 hint
  | .fadd rd rs1 rs2 => Laws.FieldsFit.fadd rd rs1 rs2
  | .fsub rd rs1 rs2 => Laws.FieldsFit.fsub rd rs1 rs2
  | .fneg rd rs1 => Laws.FieldsFit.fneg rd rs1
  | .fmul rd rs1 rs2 => Laws.FieldsFit.fmul rd rs1 rs2
  | .finv rd rs1 => Laws.FieldsFit.finv rd rs1
  | .fdiv rd rs1 rs2 => Laws.FieldsFit.fdiv rd rs1 rs2
  | .fpow rd rs1 rs2 => Laws.FieldsFit.fpow rd rs1 rs2

theorem Instr.fields_legal (hw : i.wellFormed = true) : i.fields.Legal i.op.shape := (i.fieldsFit hw).2

theorem Instr.toWord_lt (hw : i.wellFormed = true) : i.fields.toWord < 2 ^ 32 := (i.fieldsFit hw).1

/-! ## Words and fields -/

/-- A 32-bit word is put together from its fields (30_encoding.md R81). -/
theorem Fields.toWord_ofWord {w : Nat} (hw : w < 2 ^ 32) : (Fields.ofWord w).toWord = w := by
  simp only [Fields.ofWord, Fields.toWord, slice]
  omega

theorem Fields.imm_ofWord_lt (w : Nat) : (Fields.ofWord w).imm < 4096 := Nat.mod_lt _ (by decide)

/-- The fields of an instruction have their widths (30_encoding.md R81). -/
theorem Instr.fields_lt (hw : i.wellFormed = true) :
    i.fields.op < 256 ∧ i.fields.rd < 16 ∧ i.fields.rs1 < 16 ∧ i.fields.rs2 < 16 ∧ i.fields.imm < 4096 := by
  obtain ⟨⟨hrd, -⟩, ⟨hrs1, -⟩, ⟨hrs2, -⟩, -⟩ := Fields.legal_iff.mp (Instr.fields_legal hw)
  exact ⟨i.fields_op ▸ i.op.code_lt, by omega, by omega, by omega, i.wellFormed_iff.mp hw⟩

/-- The fields of an instruction's word are the instruction's. -/
theorem Instr.ofWord_toWord (hw : i.wellFormed = true) : Fields.ofWord i.fields.toWord = i.fields := by
  have hlt := Instr.fields_lt hw
  generalize i.fields = f at hlt ⊢
  obtain ⟨op, rd, rs1, rs2, imm⟩ := f
  simp only [Fields.ofWord, Fields.toWord, slice, Fields.mk.injEq] at *
  omega

theorem toNat_encode (hw : i.wellFormed = true) : (encode i).toNat = i.fields.toWord := by
  have hlt := Instr.toWord_lt hw
  simp only [encode, BitVec.toNat_ofNat]
  omega

/-! ## What the decoder answers -/

/-- Legal fields with an opcode decode to its instruction. -/
theorem Fields.decode_of_legal (hop : f.op = o.code) (hl : f.Legal o.shape) :
    f.decode = .ok (o.build (Fin.ofNat 8 f.rd) (Fin.ofNat 8 f.rs1) (Fin.ofNat 8 f.rs2) f.imm) := by
  obtain ⟨hunused, hregs⟩ := hl
  simp [Fields.decode, hop, o.ofCode_code, hunused, hregs]

/-- Fields that decode hold the opcode of the instruction and are legal for it (30_encoding.md R89). -/
theorem Fields.legal_of_decode (h : f.decode = .ok i) : f.op = i.op.code ∧ f.Legal i.op.shape := by
  unfold Fields.decode at h
  cases ho : Op.ofCode f.op with
  | none => simp [ho] at h
  | some o =>
    simp only [ho] at h
    split at h
    · cases h
    · rename_i hunused
      split at h
      · cases h
      · rename_i hregs
        cases h
        rw [Op.op_build]
        exact ⟨Op.code_of_ofCode ho, Bool.eq_false_iff.mpr hunused, Bool.eq_false_iff.mpr hregs⟩

/-- A legal register field is the number of the register it names, or an unused 0. -/
theorem ite_ofNat_eq {used : Bool} {n : Nat} (hn : n < 8) (h0 : used = false → n = 0) :
    (if used then ((Fin.ofNat 8 n : Reg) : Nat) else 0) = n := by
  cases used with
  | true => exact Nat.mod_eq_of_lt hn
  | false => exact (h0 rfl).symm

/-- The operands of a decoded instruction are the fields it was decoded from. -/
theorem Fields.fields_of_decode (h : f.decode = .ok i) : i.fields = f := by
  obtain ⟨hop, hl⟩ := Fields.legal_of_decode h
  have hbuild := Except.ok.inj ((Fields.decode_of_legal hop hl).symm.trans h)
  obtain ⟨⟨hrd, hrd0⟩, ⟨hrs1, hrs10⟩, ⟨hrs2, hrs20⟩, himm0⟩ := Fields.legal_iff.mp hl
  have himm : (if i.op.shape.usesImm then f.imm else 0) = f.imm := by
    split
    · rfl
    · exact (himm0 (Bool.eq_false_iff.mpr ‹_›)).symm
  calc i.fields = _ := congrArg Instr.fields hbuild.symm
    _ = f := by rw [Op.fields_build, ite_ofNat_eq hrd hrd0, ite_ofNat_eq hrs1 hrs10, ite_ofNat_eq hrs2 hrs20, himm, ← hop]

/-- A value decodes as its fields do, when its bits 63:32 are 0 (30_encoding.md R80). -/
theorem decode_eq_ok_iff : decode v = .ok i ↔ v.toNat < 2 ^ 32 ∧ (Fields.ofWord v.toNat).decode = .ok i := by
  have hv := v.isLt
  unfold decode slice
  split
  · exact ⟨nofun, fun ⟨hlow, _⟩ => by omega⟩
  · exact ⟨fun h => ⟨by omega, h⟩, And.right⟩

/-- The opcodes that decode with some operands: exactly the legal words (30_encoding.md R89). -/
theorem exists_decode_iff :
    (∃ i, decode v = .ok i ∧ i.op = o) ↔
      v.toNat < 2 ^ 32 ∧ (Fields.ofWord v.toNat).op = o.code ∧ (Fields.ofWord v.toNat).Legal o.shape := by
  constructor
  · rintro ⟨i, h, rfl⟩
    obtain ⟨hlow, hdecode⟩ := decode_eq_ok_iff.mp h
    exact ⟨hlow, Fields.legal_of_decode hdecode⟩
  · rintro ⟨hlow, hop, hl⟩
    exact ⟨_, decode_eq_ok_iff.mpr ⟨hlow, Fields.decode_of_legal hop hl⟩, Op.op_build ..⟩

end Sys2Proof
end

section
/-!
SUPPORT. Masks and matches (30_encoding.md R87), field by field of the word.
-/

namespace Sys2Proof

/-- Two command words are equal when their five fields are (30_encoding.md R81). -/
theorem word_eq_iff {x y : BitVec 32} :
    x = y ↔ x.extractLsb' 0 8 = y.extractLsb' 0 8 ∧ x.extractLsb' 8 4 = y.extractLsb' 8 4 ∧
      x.extractLsb' 12 4 = y.extractLsb' 12 4 ∧ x.extractLsb' 16 4 = y.extractLsb' 16 4 ∧
      x.extractLsb' 20 12 = y.extractLsb' 20 12 := by
  constructor
  · rintro rfl
    simp
  · simp only [← BitVec.toNat_inj, BitVec.extractLsb'_toNat, Nat.shiftRight_eq_div_pow]
    omega

/-- A mask selects the opcode, the top bit of a register field that is used, and all of a field that is not. -/
theorem Shape.mask_fields (sh : Shape) :
    sh.mask.extractLsb' 0 8 = BitVec.allOnes 8 ∧ sh.mask.extractLsb' 8 4 = (if sh.usesRd then 8 else 15) ∧
      sh.mask.extractLsb' 12 4 = (if sh.usesRs1 then 8 else 15) ∧
      sh.mask.extractLsb' 16 4 = (if sh.usesRs2 then 8 else 15) ∧
      sh.mask.extractLsb' 20 12 = (if sh.usesImm then 0 else BitVec.allOnes 12) := by
  cases sh <;> decide

/-- A match has the opcode and zeros. -/
theorem Op.match_fields (o : Op) :
    (BitVec.ofNat 32 o.code).extractLsb' 0 8 = BitVec.ofNat 8 o.code ∧ (BitVec.ofNat 32 o.code).extractLsb' 8 4 = 0 ∧
      (BitVec.ofNat 32 o.code).extractLsb' 12 4 = 0 ∧ (BitVec.ofNat 32 o.code).extractLsb' 16 4 = 0 ∧
      (BitVec.ofNat 32 o.code).extractLsb' 20 12 = 0 := by
  cases o <;> decide

/-- A register field passes its mask when it names a register and, unused, is 0. -/
theorem regField_and_eq_zero_iff (x : BitVec 4) (used : Bool) :
    x &&& (if used then 8 else 15) = 0 ↔ x.toNat < 8 ∧ (used = false → x.toNat = 0) := by
  revert x used
  decide

/-- The immediate passes its mask when, unused, it is 0. -/
theorem immField_and_eq_zero_iff (x : BitVec 12) (used : Bool) :
    x &&& (if used then 0 else BitVec.allOnes 12) = 0 ↔ (used = false → x.toNat = 0) := by
  cases used with
  | true => simp
  | false =>
    rw [if_neg (by decide), BitVec.and_allOnes, ← BitVec.toNat_inj]
    simp

/-- The fields of a value are those of its bits 31:0 (30_encoding.md R83). -/
theorem ofWord_eq_extract (v : Word) :
    Fields.ofWord v.toNat =
      { op := ((v.extractLsb' 0 32).extractLsb' 0 8).toNat
        rd := ((v.extractLsb' 0 32).extractLsb' 8 4).toNat
        rs1 := ((v.extractLsb' 0 32).extractLsb' 12 4).toNat
        rs2 := ((v.extractLsb' 0 32).extractLsb' 16 4).toNat
        imm := ((v.extractLsb' 0 32).extractLsb' 20 12).toNat } := by
  simp only [Fields.ofWord, slice, BitVec.extractLsb'_toNat, Nat.shiftRight_eq_div_pow, Fields.mk.injEq]
  omega

/-- Bits 31:0 of a value match an opcode under its mask exactly when the fields are its opcode and legal
(30_encoding.md R87). -/
theorem mask_matches_iff {v : Word} {o : Op} :
    v.extractLsb' 0 32 &&& o.shape.mask = BitVec.ofNat 32 o.code ↔
      (Fields.ofWord v.toNat).op = o.code ∧ (Fields.ofWord v.toNat).Legal o.shape := by
  obtain ⟨hop, hrd, hrs1, hrs2, himm⟩ := o.shape.mask_fields
  obtain ⟨hop', hrd', hrs1', hrs2', himm'⟩ := o.match_fields
  have opcode (x : BitVec 8) : x = BitVec.ofNat 8 o.code ↔ x.toNat = o.code := by
    rw [← BitVec.toNat_inj, BitVec.toNat_ofNat, Nat.mod_eq_of_lt o.code_lt]
  rw [word_eq_iff, Fields.legal_iff, ofWord_eq_extract]
  simp only [BitVec.extractLsb'_and, hop, hrd, hrs1, hrs2, himm, hop', hrd', hrs1', hrs2', himm', BitVec.and_allOnes,
    opcode, regField_and_eq_zero_iff, immField_and_eq_zero_iff]

/-- Bits 63:32 of a value are 0 when it is below 2^32. -/
theorem extract_high_eq_zero_iff {v : Word} : v.extractLsb' 32 32 = 0 ↔ v.toNat < 2 ^ 32 := by
  rw [← BitVec.toNat_inj, BitVec.extractLsb'_toNat, Nat.shiftRight_eq_div_pow, BitVec.ofNat_eq_ofNat, BitVec.toNat_ofNat,
    Nat.zero_mod]
  omega

/-- Shifting a number left before or after it is cut to a word is the same. -/
theorem ofNat_shiftLeft (w n k : Nat) : BitVec.ofNat w (n <<< k) = BitVec.ofNat w n <<< k := by
  apply BitVec.eq_of_toNat_eq
  simp [Nat.shiftLeft_eq]

/-- The fields of a command word do not overlap: their sum is the encoder's or (30_encoding.md R87). -/
theorem Instr.toWord_eq_or {i : Instr} (hw : i.wellFormed = true) :
    i.fields.toWord =
      i.fields.op ||| i.fields.rd <<< 8 ||| i.fields.rs1 <<< 12 ||| i.fields.rs2 <<< 16 ||| i.fields.imm <<< 20 := by
  obtain ⟨hop, hrd, hrs1, hrs2, -⟩ := Instr.fields_lt hw
  have or_eq {x k : Nat} (hx : x < 2 ^ k) (n : Nat) : x + n * 2 ^ k = x ||| n <<< k := by
    rw [Nat.or_comm, ← Nat.shiftLeft_add_eq_or_of_lt hx, Nat.shiftLeft_eq, Nat.add_comm]
  rw [Fields.toWord, or_eq (by omega), or_eq (by omega), or_eq (by omega), or_eq (by omega)]

end Sys2Proof
end

section
/-!
PROOF. Decoding and encoding undo each other, and what a word that is no instruction does (30_encoding.md R86 to R90).
-/

namespace Sys2Proof

open Sys2Proof.Machine

/-- Settles O1: the word of a well-formed instruction has the instruction's fields, which are legal. -/
theorem decodeEncodeRoundTrip : Obligations.DecodeEncodeRoundTrip := by
  intro i hw
  rw [decode_eq_ok_iff, toNat_encode hw, Instr.ofWord_toWord hw]
  refine ⟨Instr.toWord_lt hw, ?_⟩
  rw [Fields.decode_of_legal i.fields_op (Instr.fields_legal hw), i.build_fields]

/-- Settles O2: a decoded instruction has the fields of the value, and they put it together again. -/
theorem encodeDecodeRoundTrip : Obligations.EncodeDecodeRoundTrip := by
  intro v i h
  obtain ⟨hlow, hdecode⟩ := decode_eq_ok_iff.mp h
  have hfields := Fields.fields_of_decode hdecode
  constructor
  · rw [i.wellFormed_iff, hfields]
    exact Fields.imm_ofWord_lt _
  · rw [encode, hfields, Fields.toWord_ofWord hlow, BitVec.ofNat_toNat, BitVec.setWidth_eq]

/-- Settles O3: a word passes the mask of a shape when its fields are legal, the words that decode are those, and the
encoder's sum is an or. -/
theorem commandIffMaskMatches : Obligations.CommandIffMaskMatches := by
  refine ⟨fun v o => ?_, fun v i h => ?_, fun i hw => ?_⟩
  · rw [exists_decode_iff, mask_matches_iff, extract_high_eq_zero_iff, and_comm]
  · exact Fields.fields_of_decode (decode_eq_ok_iff.mp h).2
  · have hlow := Instr.toWord_lt hw
    simp only [← ofNat_shiftLeft, ← BitVec.ofNat_or, ← Instr.toWord_eq_or hw]
    apply BitVec.eq_of_toNat_eq
    rw [toNat_encode hw, BitVec.toNat_setWidth, BitVec.toNat_ofNat]
    omega

/-- A value with bits 63:32 not 0, no opcode, or fields that are not legal for its opcode decodes to no instruction. -/
theorem decode_ne_ok {v : Word} (i : Instr)
    (h : v.toNat / 2 ^ 32 ≠ 0 ∨ (∀ o : Op, o.code ≠ v.toNat % 2 ^ 8) ∨
      ∃ o : Op, o.code = v.toNat % 2 ^ 8 ∧ ¬(Fields.ofWord v.toNat).Legal o.shape) : decode v ≠ .ok i := by
  intro hd
  obtain ⟨hlow, hop, hl⟩ := exists_decode_iff.mp ⟨i, hd, rfl⟩
  have hcode : i.op.code = v.toNat % 2 ^ 8 := by simpa [Fields.ofWord, slice] using hop.symm
  rcases h with hhigh | hnone | ⟨o, ho, hbad⟩
  · omega
  · exact hnone i.op hcode
  · exact hbad (Op.code_injective (ho.trans hcode.symm) ▸ hl)

/-- The engine's turn on a value that is no instruction's enters ILLEGAL (60_exceptions.md R203). -/
theorem engineTurn_illegal {s : State} {v : Word} (he : s.engine = .running v) (hno : ∀ i, decode v ≠ .ok i) :
    engineTurn s = .next (s.raiseError .illegal) := by
  rw [engineTurn_running he]
  cases hd : decode v with
  | ok i => exact absurd hd (hno i)
  | error r => exact runLatched_illegal hd

/-- Settles O4: a value that meets one of the conditions decodes to no instruction. -/
theorem illegalWordRaisesIllegal : Obligations.IllegalWordRaisesIllegal := by
  intro s v he hv
  have hno (i : Instr) : decode v ≠ .ok i := by
    refine decode_ne_ok i ?_
    rcases hv with hhigh | hnone | ⟨o, ho, hfield⟩ | ⟨o, ho, hreg⟩
    · exact .inl hhigh
    · exact .inr (.inl hnone)
    · exact .inr (.inr ⟨o, ho, Fields.not_legal_of_unused hfield⟩)
    · exact .inr (.inr ⟨o, ho, Fields.not_legal_of_register hreg⟩)
  refine ⟨fun hi => ?_, fun rest hi => ?_⟩
  · exact ⟨_, (step_nil hi).trans (engineTurn_illegal he hno), s.raiseError_errored .illegal⟩
  · exact ⟨_, (step_cons hi).trans (engineTurn_illegal (s := { s with inputs := rest }) he hno),
      State.raiseError_errored _ .illegal⟩

/-- Settles O5, by running the decoder. -/
theorem sampleWordsDecode : Obligations.SampleWordsDecode := by
  unfold Obligations.SampleWordsDecode
  decide

end Sys2Proof
end

section
/-!
PROOF. HLOAD (30_encoding.md R93): a run of limb stores, each in its place (20_memory.md R55).
-/

namespace Sys2Proof.Machine

open Sys2Proof.Config

variable {s : State} {i : Reg} {v : Nat} {rest : List Input}

/-- The register with the limbs of v stored at the places listed, one after another. -/
def LimbReg.storeLimbs (r : LimbReg) (v : Nat) (js : List Nat) : LimbReg :=
  js.foldl (fun r j => r.setLimb j (limbOfVal v j)) r

theorem LimbReg.storeLimbs_cons (r : LimbReg) (v j : Nat) (js : List Nat) :
    r.storeLimbs v (j :: js) = (r.setLimb j (limbOfVal v j)).storeLimbs v js := rfl

@[simp] theorem LimbReg.storeLimbs_sgn (r : LimbReg) (v : Nat) (js : List Nat) : (r.storeLimbs v js).sgn = r.sgn := by
  induction js generalizing r with
  | nil => rfl
  | cons j js ih => rw [storeLimbs_cons, ih, setLimb_sgn]

/-- Storing the first k limbs of a value leaves the others. -/
theorem LimbReg.limbs_storeLimbs_range (r : LimbReg) (v : Nat) {k : Nat} (hk : k ≤ r.limbs.length) :
    (r.storeLimbs v (List.range k)).limbs = (limbsOf r.limbs.length v).take k ++ r.limbs.drop k := by
  induction k with
  | zero => simp [storeLimbs]
  | succ k ih =>
    have hfold : r.storeLimbs v (List.range (k + 1)) = (r.storeLimbs v (List.range k)).setLimb k (limbOfVal v k) := by
      simp [storeLimbs, List.range_succ]
    have hlen : ((limbsOf r.limbs.length v).take k).length = k := by
      rw [List.length_take, length_limbsOf]
      omega
    rw [hfold, setLimb, ih (by omega), List.set_append_right _ _ hlen.le, hlen, Nat.sub_self, List.drop_eq_getElem_cons hk,
      List.set_cons_zero, List.take_add_one, getElem?_limbsOf hk]
    simp

/-- Storing all the limbs of a value leaves a register that holds them, with the sign it had. -/
theorem LimbReg.storeLimbs_range_length (r : LimbReg) (v : Nat) :
    r.storeLimbs v (List.range r.limbs.length) = { limbs := limbsOf r.limbs.length v, sgn := r.sgn } := by
  have hlimbs := r.limbs_storeLimbs_range v (Nat.le_refl _)
  rw [List.drop_length, List.append_nil, List.take_of_length_le (by simp)] at hlimbs
  rw [← hlimbs, ← r.storeLimbs_sgn v (List.range r.limbs.length)]

/-- One limb store of an idle FAC (20_memory.md R55). -/
theorem step_storeLimb {j : Nat} {x : Limb} (hrst : s.rst = false) (hb : s.status.busy = false) (hj : j < s.n)
    (hi : s.inputs = memWrite (addrE s.inst i j) x :: rest) :
    step s = .next { s with e := s.e.set i ((s.e.get i).setLimb j x), inputs := rest, rdata := none } :=
  (step_write_present (.e i j) hi hrst rfl (decide_eq_true hj)).trans (State.storeIdle_idle hb)

/-- Limb stores of an idle FAC, one or more. -/
theorem runSteps_storeLimbs {j : Nat} {js : List Nat} (hrst : s.rst = false) (hb : s.status.busy = false)
    (hjs : ∀ k ∈ j :: js, k < s.n)
    (hi : s.inputs = (j :: js).map (fun k => memWrite (addrE s.inst i k) (limbOfVal v k)) ++ rest) :
    runSteps (j :: js).length s =
      .next { s with e := s.e.set i ((s.e.get i).storeLimbs v (j :: js)), inputs := rest, rdata := none } := by
  induction js generalizing s j with
  | nil => exact runSteps_succ (step_storeLimb hrst hb (hjs j List.mem_cons_self) hi)
  | cons k js ih =>
    have hstep := step_storeLimb hrst hb (hjs j List.mem_cons_self) hi
    calc runSteps (j :: k :: js).length s = _ := runSteps_succ hstep
      _ = _ := ih (j := k) (by exact hrst) (by exact hb) (fun x hx => hjs x (List.mem_cons_of_mem _ hx)) rfl
      _ = _ := by simp [LimbReg.storeLimbs_cons]

/-- Settles O58: the N stores leave in E[i] what the result write of a command does. -/
theorem hloadStoresValue : Obligations.HloadStoresValue := by
  intro s i v rest hrst hb hshape hv hi
  have hstores : (s.e.get i).storeLimbs v (List.range s.n) = { limbs := limbsOf s.n v, sgn := (s.e.get i).sgn } := by
    rw [← hshape.1 i]
    exact LimbReg.storeLimbs_range_length _ v
  have hrun : runSteps s.n s =
      .next { s with e := s.e.set i { limbs := limbsOf s.n v, sgn := (s.e.get i).sgn }, inputs := rest, rdata := none } := by
    obtain ⟨j, js, hjs⟩ : ∃ j js, List.range s.n = j :: js :=
      List.exists_cons_of_ne_nil (by rcases n_cases s.inst.variant with hn | hn <;> simp [State.n, hn])
    have hlen : (j :: js).length = s.n := by rw [← hjs, List.length_range]
    rw [← hstores, hjs]
    refine hlen ▸ runSteps_storeLimbs hrst hb (fun k hk => List.mem_range.mp (hjs ▸ hk)) ?_
    rw [← hjs]
    exact hi
  obtain ⟨hvalue, hsign, hlength, hwritten, hothers⟩ := s.writeE_wroteElem i v (s.e.get i).sgn hv
  exact ⟨_, hrun, ⟨hvalue, hsign, hlength, hwritten, hothers⟩, rfl⟩

end Sys2Proof.Machine
end

section
/-!
SUPPORT. Command words written out as sums of shifted fields (30_encoding.md R82, R87), for the shapes without an immediate.
-/

namespace Sys2Proof

variable {i : Instr} {op : Nat} {rd rs1 rs2 : Reg}

/-- The word of three registers, written out (30_encoding.md R82, R87). -/
theorem decode_of_rd_rs1_rs2 (h : i.fields = ⟨op, rd, rs1, rs2, 0⟩) :
    decode (BitVec.ofNat 64 (op + rd * 2 ^ 8 + rs1 * 2 ^ 12 + rs2 * 2 ^ 16)) = .ok i := by
  have hround := decodeEncodeRoundTrip i (i.wellFormed_iff.mpr (by simp [h]))
  rwa [encode, h, Fields.toWord, Nat.zero_mul, Nat.add_zero] at hround

/-- The word of two sources, written out: RD is 0 (30_encoding.md R82, R87). -/
theorem decode_of_rs1_rs2 (h : i.fields = ⟨op, 0, rs1, rs2, 0⟩) :
    decode (BitVec.ofNat 64 (op + rs1 * 2 ^ 12 + rs2 * 2 ^ 16)) = .ok i := by
  simpa using decode_of_rd_rs1_rs2 (rd := 0) h

/-- The word of a destination and a source, written out: RS2 is 0 (30_encoding.md R82, R87). -/
theorem decode_of_rd_rs1 (h : i.fields = ⟨op, rd, rs1, 0, 0⟩) :
    decode (BitVec.ofNat 64 (op + rd * 2 ^ 8 + rs1 * 2 ^ 12)) = .ok i := by
  simpa using decode_of_rd_rs1_rs2 (rs2 := 0) h

end Sys2Proof
end

section
/-!
SUPPORT. What a command of the unsigned family leaves behind in the shapes of Safety.lean (10_state.md R23 to R25), and
the bounds that its results need.
-/

namespace Sys2Proof.Machine

/-- Completion after any change of E, W and FLAGS leaves the rest of the control state as it was
(70_reset_and_hazards.md R250). -/
theorem State.finish_completed_of_data (s : State) (e : Vector LimbReg Config.nreg) (w : LimbReg) (flags : Flags) :
    Completed s (State.finish { s with e := e, w := w, flags := flags }) := ⟨rfl, rfl, rfl, rfl, rfl, rfl, rfl⟩

/-- A command that ends with an unsigned value in E[rd] and a bit in C. -/
theorem State.writeE_setC_finish (s : State) (rd : Reg) {v : Nat} (c : Bool) (h : v < s.radix) :
    ElemAndCarry s ((s.writeE rd v false).setC c).finish rd v c := by
  obtain ⟨hvalue, hsign, hlength, hwritten, hothers⟩ := s.writeE_wroteElem rd v false h
  exact ⟨⟨hvalue, hsign, hlength, hwritten, hothers⟩, rfl, rfl, s.finish_completed_of_data _ _ _⟩

/-- A command that ends with a value in W. -/
theorem State.writeW_finish (s : State) {v : Nat} (neg : Bool) (h : v < s.inst.variant.wideRadix) :
    OnlyWide s (s.writeW v neg).finish v neg := by
  obtain ⟨hvalue, hsign, hlength, hwritten⟩ := s.writeW_wroteWide v neg h
  exact ⟨⟨hvalue, hsign, hlength, hwritten⟩, rfl, rfl, s.finish_completed_of_data _ _ _⟩

theorem State.radix_pos (s : State) : 0 < s.radix := Nat.two_pow_pos _

/-- M is twice the weight of an element's top bit. -/
theorem State.radix_eq_two_mul (s : State) : s.radix = 2 * 2 ^ (64 * s.n - 1) := by
  have hn : 0 < 64 * s.n := by rcases n_cases s.inst.variant with hn | hn <;> simp [State.n, hn]
  exact (Nat.two_pow_pred_mul_two hn).symm.trans (Nat.mul_comm _ _)

/-- The product of two element values fits W (40_unsigned.md R102). -/
theorem State.Shaped.mul_lt_wideRadix {s : State} (h : s.Shaped) (i j : Reg) :
    s.readE i * s.readE j < s.inst.variant.wideRadix := by
  have hwide : s.inst.variant.wideRadix = s.radix * s.radix := by
    rw [State.radix, Config.Variant.wideRadix, Config.Variant.radix, ← Nat.pow_add]
    congr 1
    omega
  rw [hwide]
  exact Nat.mul_lt_mul'' (h.readE_lt i) (h.readE_lt j)

end Sys2Proof.Machine
end

section
/-!
SUPPORT. The arithmetic of the unsigned family (40_unsigned.md R100 to R107), for values below a radix m.
-/

namespace Sys2Proof.Machine

variable {m a b : Nat}

/-- The floor residue of a difference is the difference, wrapped once when it is negative (40_unsigned.md R101). -/
theorem toNat_sub_emod (ha : a < m) (hb : b < m) :
    (((a : Int) - b) % m).toNat = if a < b then a + m - b else a - b := by
  split
  · rw [← Int.add_emod_right, Int.emod_eq_of_lt (by omega) (by omega)]
    omega
  · rw [Int.emod_eq_of_lt (by omega) (by omega)]
    omega

theorem wrapped_sub_lt (ha : a < m) (hb : b < m) : (if a < b then a + m - b else a - b) < m := by
  split <;> omega

/-- C and the sum mod m are the sum (40_unsigned.md R107). -/
theorem carry_mul_add_mod (ha : a < m) (hb : b < m) : (decide (m ≤ a + b)).toNat * m + (a + b) % m = a + b := by
  by_cases h : m ≤ a + b
  · have hmod : (a + b) % m = a + b - m := by
      rw [Nat.mod_eq_sub_mod h, Nat.mod_eq_of_lt (by omega)]
    simp [h, hmod]
  · simp [h, Nat.mod_eq_of_lt (Nat.lt_of_not_le h)]

/-- The wrapped difference without what C borrowed is the difference (40_unsigned.md R107). -/
theorem wrapped_sub_borrow_mul (hb : b < m) :
    ((if a < b then a + m - b else a - b : Nat) : Int) - (decide (a < b)).toNat * m = a - b := by
  by_cases h : a < b
  · rw [if_pos h, decide_eq_true h, Bool.toNat_true]
    omega
  · rw [if_neg h, decide_eq_false h, Bool.toNat_false]
    omega

/-- The top bit and the doubled rest are the double (40_unsigned.md R107). -/
theorem topBit_mul_add_mod {k : Nat} (hm : m = 2 * 2 ^ k) (ha : a < m) :
    (a.testBit k).toNat * m + 2 * a % m = 2 * a := by
  have htop : (a.testBit k).toNat = a / 2 ^ k := by
    rw [Nat.toNat_testBit, Nat.mod_eq_of_lt (Nat.div_lt_of_lt_mul (by omega))]
  calc (a.testBit k).toNat * m + 2 * a % m = 2 * (2 ^ k * (a / 2 ^ k) + a % 2 ^ k) := by
        rw [htop, hm, Nat.mul_mod_mul_left]
        ring
    _ = 2 * a := by rw [Nat.div_add_mod]

/-- The doubled half and the bottom bit are the value (40_unsigned.md R107). -/
theorem two_mul_half_add_bottomBit (a : Nat) : 2 * (a / 2) + (a.testBit 0).toNat = a := by
  rw [Nat.toNat_testBit, Nat.pow_zero, Nat.div_one, Nat.div_add_mod]

end Sys2Proof.Machine
end

section
/-!
PROOF. The unsigned family (40_unsigned.md R100 to R107): what each command leaves behind, and the exact laws.
-/

namespace Sys2Proof.Machine

variable {s t : State} {rd rs1 rs2 : Reg}

/-- ADD writes the sum mod M and the carry, on every state (40_unsigned.md R100). -/
theorem execAdd_next (h : exec (.add rd rs1 rs2) s = .next t) :
    ElemAndCarry s t rd ((s.readE rs1 + s.readE rs2) % 2 ^ (64 * s.n))
      (decide (2 ^ (64 * s.n) ≤ s.readE rs1 + s.readE rs2)) := by
  cases h
  exact s.writeE_setC_finish rd _ (Nat.mod_lt _ s.radix_pos)

/-- SUB writes the wrapped difference and the borrow (40_unsigned.md R101). -/
theorem execSub_next (hs : s.Shaped) (h : exec (.sub rd rs1 rs2) s = .next t) :
    ElemAndCarry s t rd
      (if s.readE rs1 < s.readE rs2 then s.readE rs1 + 2 ^ (64 * s.n) - s.readE rs2 else s.readE rs1 - s.readE rs2)
      (decide (s.readE rs1 < s.readE rs2)) := by
  cases h
  have ha := hs.readE_lt rs1
  have hb := hs.readE_lt rs2
  rw [toNat_sub_emod ha hb]
  exact s.writeE_setC_finish rd _ (wrapped_sub_lt ha hb)

/-- MULW writes the product to W (40_unsigned.md R102). -/
theorem execMulw_next (hs : s.Shaped) (h : exec (.mulw rs1 rs2) s = .next t) :
    OnlyWide s t (s.readE rs1 * s.readE rs2) false := by
  cases h
  exact s.writeW_finish false (hs.mul_lt_wideRadix rs1 rs2)

/-- SHL1 writes the double mod M and the top bit, on every state (40_unsigned.md R104). -/
theorem execShl1_next (h : exec (.shl1 rd rs1) s = .next t) :
    ElemAndCarry s t rd (2 * s.readE rs1 % 2 ^ (64 * s.n)) ((s.readE rs1).testBit (64 * s.n - 1)) := by
  cases h
  rw [Nat.testBit_eq_decide_div_mod_eq, Nat.mul_comm 2]
  exact s.writeE_setC_finish rd _ (Nat.mod_lt _ s.radix_pos)

/-- SHR1 writes the half and the bottom bit (40_unsigned.md R105). -/
theorem execShr1_next (hs : s.Shaped) (h : exec (.shr1 rd rs1) s = .next t) :
    ElemAndCarry s t rd (s.readE rs1 / 2) ((s.readE rs1).testBit 0) := by
  cases h
  rw [Nat.testBit_zero]
  exact s.writeE_setC_finish rd _ (Nat.lt_of_le_of_lt (Nat.div_le_self _ 2) (hs.readE_lt rs1))

/-- Settles O13: each law is the arithmetic of the value and the bit that the command leaves behind. -/
theorem unsignedResultsAreExact : Obligations.UnsignedResultsAreExact := by
  intro s t rd rs1 rs2 hs
  have ha := hs.readE_lt rs1
  have hb := hs.readE_lt rs2
  refine ⟨fun h => ?add, fun h => ?sub, fun h => (execMulw_next hs h).wide.value, fun h => ?shl1, fun h => ?shr1,
    hs.readE_lt⟩
  case add =>
    have hadd := execAdd_next h
    rw [hadd.flags, hadd.elem.value]
    exact carry_mul_add_mod ha hb
  case sub =>
    have hsub := execSub_next hs h
    rw [hsub.flags, hsub.elem.value]
    exact_mod_cast wrapped_sub_borrow_mul hb
  case shl1 =>
    have hshl := execShl1_next h
    rw [hshl.flags, hshl.elem.value]
    exact topBit_mul_add_mod s.radix_eq_two_mul ha
  case shr1 =>
    have hshr := execShr1_next hs h
    rw [hshr.flags, hshr.elem.value]
    exact two_mul_half_add_bottomBit _

/-- Settles O7: the sum mod M is below M, so the N limbs of the result write hold it. -/
theorem addGivesSumAndCarry : Obligations.AddGivesSumAndCarry := fun _ _ _ =>
  ⟨decode_of_rd_rs1_rs2 rfl, fun _ => ⟨_, rfl, execAdd_next rfl⟩⟩

/-- Settles O8: below M the floor residue of the difference is the difference wrapped once. -/
theorem subGivesDifferenceAndBorrow : Obligations.SubGivesDifferenceAndBorrow := fun _ _ _ =>
  ⟨decode_of_rd_rs1_rs2 rfl, fun _ hs => ⟨_, rfl, execSub_next hs rfl⟩⟩

/-- Settles O9: the product of two element values fits the 2N limbs of W. -/
theorem mulwGivesExactProduct : Obligations.MulwGivesExactProduct := fun _ _ =>
  ⟨decode_of_rs1_rs2 rfl, fun _ hs => ⟨_, rfl, execMulw_next hs rfl⟩⟩

/-- Settles O10: the operands stand in exactly one order, and CMP records it. -/
theorem cmpSetsOrderFlags : Obligations.CmpSetsOrderFlags := fun _ _ =>
  ⟨decode_of_rs1_rs2 rfl, fun s =>
    ⟨_, rfl, rfl, s.orderCount_setOrder _ _, rfl, rfl, s.finish_completed_of_data _ _ _⟩⟩

/-- Settles O11: the double mod M fits its N limbs, and C is the tested bit of the operand. -/
theorem shlGivesDoubleAndTopBit : Obligations.ShlGivesDoubleAndTopBit := fun _ _ =>
  ⟨decode_of_rd_rs1 rfl, fun _ => ⟨_, rfl, execShl1_next rfl⟩⟩

/-- Settles O12: half of an element value fits its N limbs. -/
theorem shrGivesHalfAndBottomBit : Obligations.ShrGivesHalfAndBottomBit := fun _ _ =>
  ⟨decode_of_rd_rs1 rfl, fun _ hs => ⟨_, rfl, execShr1_next hs rfl⟩⟩

end Sys2Proof.Machine
end

section
/-!
SUPPORT. The document's loops (41_signed.md R124, 42_reduction.md R144): the value they leave, and how many tests of their
condition they need.
-/

namespace Sys2Proof.Machine

variable {p fuel : Nat}

/-- What is left after subtracting p while the value is at least p is the residue (42_reduction.md R144). -/
theorem eq_mod_of_subtractWhile_eq_some {v r : Nat} (h : subtractWhile p fuel v = some r) : r = v % p := by
  induction fuel generalizing v with
  | zero => simp [subtractWhile] at h
  | succ fuel ih =>
    rw [subtractWhile] at h
    split at h
    next hle => rw [Nat.mod_eq_sub_mod hle, ih h]
    next hlt =>
      cases h
      exact (Nat.mod_eq_of_lt (Nat.lt_of_not_le hlt)).symm

/-- One test more than the quotient ends the subtractions. -/
theorem subtractWhile_of_div_lt {v : Nat} (hp : 0 < p) (h : v / p < fuel) : subtractWhile p fuel v = some (v % p) := by
  induction fuel generalizing v with
  | zero => exact absurd h (Nat.not_lt_zero _)
  | succ fuel ih =>
    rw [subtractWhile]
    split
    next hle =>
      have hquot : (v - p) / p < fuel := by
        rw [Nat.div_eq_sub_div hp hle] at h
        omega
      rw [ih hquot, Nat.mod_eq_sub_mod hle]
    next hlt => rw [Nat.mod_eq_of_lt (Nat.lt_of_not_le hlt)]

/-- What is left after adding p while the value is negative is not negative, and congruent to the value (41_signed.md R124). -/
theorem nonneg_and_emod_eq_of_addWhile_eq_some {v u : Int} (h : addWhile p fuel v = some u) : 0 ≤ u ∧ u % p = v % p := by
  induction fuel generalizing v with
  | zero => simp [addWhile] at h
  | succ fuel ih =>
    rw [addWhile] at h
    split at h
    next hneg =>
      obtain ⟨hnonneg, hmod⟩ := ih h
      exact ⟨hnonneg, hmod.trans (Int.add_emod_right ..)⟩
    next hnonneg =>
      cases h
      exact ⟨Int.not_lt.mp hnonneg, rfl⟩

/-- When k additions of p are enough, k + 1 tests end them: a negative value is left at its residue, another as it is. -/
theorem addWhile_of_neg_le {k : Nat} {v : Int} (h : -v ≤ k * p) :
    addWhile p (k + 1) v = some (if v < 0 then v % p else v) := by
  induction k generalizing v with
  | zero =>
    have hnonneg : ¬v < 0 := by omega
    simp [addWhile, hnonneg]
  | succ k ih =>
    have hsucc : ((k + 1 : Nat) : Int) * p = k * p + p := by
      push_cast
      ring
    rw [addWhile]
    split
    next hneg =>
      rw [ih (by omega)]
      split
      next => rw [Int.add_emod_right]
      next hnonneg => rw [← Int.add_emod_right, Int.emod_eq_of_lt (by omega) (by omega)]
    next => rfl

/-- The fold residue is the floor residue (00_scope.md R11). -/
theorem foldResidue_cast (hp : 0 < p) (v : Int) : (foldResidue p v : Int) = v % p :=
  Int.toNat_of_nonneg (Int.emod_nonneg v (by omega))

theorem foldResidue_lt (hp : 0 < p) (v : Int) : foldResidue p v < p := by
  have hlt := Int.emod_lt_of_pos v (show (0 : Int) < p by omega)
  rw [← foldResidue_cast hp] at hlt
  exact_mod_cast hlt

/-- The fold residue is congruent to the value (41_signed.md R124). -/
theorem dvd_sub_foldResidue (hp : 0 < p) (v : Int) : (p : Int) ∣ v - foldResidue p v := by
  rw [foldResidue_cast hp]
  exact Int.dvd_self_sub_emod

/-- For a value that is not negative the fold residue is the residue of the naturals (42_reduction.md R144). -/
theorem toNat_mod_eq_foldResidue {u : Int} (h : 0 ≤ u) : u.toNat % p = foldResidue p u := by
  obtain ⟨n, rfl⟩ := Int.eq_ofNat_of_zero_le h
  rfl

/-- What the fold leaves is the fold residue (41_signed.md R124). -/
theorem eq_foldResidue_of_foldLoop_eq_some {v : Int} {r : Nat} (h : foldLoop p fuel v = some r) : r = foldResidue p v := by
  unfold foldLoop at h
  split at h
  next => cases h
  next u hadd =>
    obtain ⟨hnonneg, hmod⟩ := nonneg_and_emod_eq_of_addWhile_eq_some hadd
    calc r = u.toNat % p := eq_mod_of_subtractWhile_eq_some h
      _ = foldResidue p u := toNat_mod_eq_foldResidue hnonneg
      _ = foldResidue p v := congrArg Int.toNat hmod

/-- When k times p reaches the magnitude, k + 1 tests of each loop end the fold (41_signed.md R124). -/
theorem foldLoop_of_natAbs_le {k : Nat} {v : Int} (hp : 0 < p) (h : v.natAbs ≤ k * p) :
    foldLoop p (k + 1) v = some (foldResidue p v) := by
  have hcast : (v.natAbs : Int) ≤ k * p := by exact_mod_cast h
  have hadd := addWhile_of_neg_le (p := p) (k := k) (v := v) (by omega)
  have hends : ∃ r, foldLoop p (k + 1) v = some r := by
    unfold foldLoop
    rw [hadd]
    refine ⟨_, subtractWhile_of_div_lt hp ?_⟩
    split
    next => exact (Nat.div_eq_of_lt (foldResidue_lt hp v)).trans_lt (Nat.succ_pos k)
    next => exact Nat.lt_succ_of_le (Nat.div_le_of_le_mul (by rw [Nat.mul_comm]; omega))
  obtain ⟨r, hr⟩ := hends
  rw [hr, eq_foldResidue_of_foldLoop_eq_some hr]

end Sys2Proof.Machine
end

section
/-!
SUPPORT. What the signed family needs besides: the sized P is positive and fits an element (00_scope.md R5,
R6), what a command that ends with a value in E[rd] leaves behind, and the word of one register (30_encoding.md R82).
-/

namespace Sys2Proof

open Sys2Proof.Config

/-- The word of a destination alone, written out: RS1 and RS2 are 0 (30_encoding.md R82, R87). -/
theorem decode_of_rd {i : Instr} {op : Nat} {rd : Reg} (h : i.fields = ⟨op, rd, 0, 0, 0⟩) :
    decode (BitVec.ofNat 64 (op + rd * 2 ^ 8)) = .ok i := by
  simpa using decode_of_rd_rs1 (rs1 := 0) h

/-- A sized P is positive and below M (00_scope.md R5, R6). -/
theorem Config.Variant.p_bounds {c : Variant} (h : c.sized = true) : 0 < c.p ∧ c.p < c.radix := by
  cases c with
  | fac256 => decide
  | fac480 p480 bound480 =>
    simp only [Variant.sized, Bool.and_eq_true, decide_eq_true_eq] at h
    obtain ⟨⟨⟨hlow, hhigh⟩, -⟩, -⟩ := h
    have hradix : 2 ^ 480 < (Variant.fac480 p480 bound480).radix :=
      pow_lt_pow_right₀ one_lt_two (show 480 < 64 * 8 by decide)
    exact ⟨(pow_pos two_pos 479).trans_le hlow, hhigh.trans hradix⟩

namespace Machine

variable {s : State}

/-- The magnitude of sval(i) is E[i] (41_signed.md R120). -/
theorem State.natAbs_svalE (s : State) (i : Reg) : (s.svalE i).natAbs = s.readE i := LimbReg.natAbs_sval _

/-- A command that ends with a value in E[rd] under a sign. -/
theorem State.writeE_finish (s : State) (rd : Reg) {v : Nat} (neg : Bool) (h : v < s.radix) :
    OnlyElem s (s.writeE rd v neg).finish rd v neg := by
  obtain ⟨hvalue, hsign, hlength, hwritten, hothers⟩ := s.writeE_wroteElem rd v neg h
  exact ⟨⟨hvalue, hsign, hlength, hwritten, hothers⟩, rfl, rfl, s.finish_completed_of_data _ _ _⟩

/-- A signed result is exact, or it does not fit and is RANGE (41_signed.md R120). -/
theorem State.finishSigned_exact_or_range (s : State) (rd : Reg) (v : Int) :
    (v.natAbs < 2 ^ (64 * s.n) → ∃ t, s.finishSigned rd v = .next t ∧ OnlyElem s t rd v.natAbs (decide (v < 0))) ∧
      (2 ^ (64 * s.n) ≤ v.natAbs → ∃ t, s.finishSigned rd v = .next t ∧ Errored s t 2) := by
  rcases s.finishSigned_cases rd v with ⟨hbig, herror⟩ | ⟨hfits, hwrite⟩
  · exact ⟨fun hfits => absurd hbig (Nat.not_le_of_lt hfits), fun _ => ⟨_, herror, s.raiseError_errored .range⟩⟩
  · exact ⟨fun _ => ⟨_, hwrite, s.writeE_finish rd _ hfits⟩, fun hbig => absurd hbig (Nat.not_le_of_lt hfits)⟩

/-- A fold writes its residue, which fits an element (41_signed.md R124, R125). -/
theorem State.writeE_foldResidue_finish (hsized : s.inst.variant.sized = true) (rd : Reg) (a : Int) :
    OnlyElem s (s.writeE rd (foldResidue s.p a) false).finish rd (foldResidue s.p a) false := by
  obtain ⟨hpos, hradix⟩ := Variant.p_bounds hsized
  exact s.writeE_finish rd false (Nat.lt_trans (foldResidue_lt hpos a) hradix)

end Machine
end Sys2Proof
end

section
/-!
PROOF. The signed family (41_signed.md R121 to R125), and the document's loops against the residues the model computes.
-/

namespace Sys2Proof.Machine

open Sys2Proof.Config

/-- Settles O17: ceil(M / P) times P reaches the magnitude of every element value. -/
theorem sfoldGivesResidue : Obligations.SfoldGivesResidue := by
  refine fun rd rs1 => ⟨decode_of_rd_rs1 rfl, ?_⟩
  intro s a hsized hs ha
  have hpos : 0 < s.p := (Variant.p_bounds hsized).1
  have hmagnitude : a.natAbs < 2 ^ (64 * s.n) := by
    rw [show a = s.svalE rs1 from ha, State.natAbs_svalE]
    exact hs.readE_lt rs1
  have hceil : 2 ^ (64 * s.n) ≤ (2 ^ (64 * s.n) + s.p - 1) / s.p * s.p := by
    have hquot := Nat.lt_div_mul_add (a := 2 ^ (64 * s.n) + s.p - 1) hpos
    omega
  cases ha
  exact ⟨_, rfl, _, foldResidue_lt hpos _, dvd_sub_foldResidue hpos _, State.writeE_foldResidue_finish hsized rd _,
    foldLoop_of_natAbs_le hpos (by omega)⟩

/-- Settles O22: the quotient by P, or the magnitude, bounds the tests that a loop needs. -/
theorem loopsLeaveResidues : Obligations.LoopsLeaveResidues := by
  intro c hsized
  have hpos : 0 < c.p := (Variant.p_bounds hsized).1
  refine ⟨fun _ _ _ => eq_mod_of_subtractWhile_eq_some, fun v => ?_, fun _ _ _ => eq_foldResidue_of_foldLoop_eq_some,
    fun v => ?_⟩
  · exact ⟨v / c.p + 1, subtractWhile_of_div_lt hpos (Nat.lt_succ_self _)⟩
  · exact ⟨v.natAbs + 1, foldLoop_of_natAbs_le hpos (Nat.le_mul_of_pos_right _ hpos)⟩

/-- Settles O14: SADD ends with the signed sum. -/
theorem saddGivesExactSumOrRange : Obligations.SaddGivesExactSumOrRange := by
  refine fun rd rs1 rs2 => ⟨decode_of_rd_rs1_rs2 rfl, ?_⟩
  rintro s _ _ rfl rfl
  exact s.finishSigned_exact_or_range rd (s.svalE rs1 + s.svalE rs2)

/-- Settles O15: SSUB ends with the signed difference. -/
theorem ssubGivesExactDifferenceOrRange : Obligations.SsubGivesExactDifferenceOrRange := by
  refine fun rd rs1 rs2 => ⟨decode_of_rd_rs1_rs2 rfl, ?_⟩
  rintro s _ _ rfl rfl
  exact s.finishSigned_exact_or_range rd (s.svalE rs1 - s.svalE rs2)

/-- Settles O16: the magnitude of the product is the product of the magnitudes, which fits W. -/
theorem smulwGivesExactProduct : Obligations.SmulwGivesExactProduct := by
  refine fun rs1 rs2 => ⟨decode_of_rs1_rs2 rfl, ?_⟩
  rintro s _ _ hs rfl rfl
  have hmagnitude : (s.svalE rs1 * s.svalE rs2).natAbs = s.readE rs1 * s.readE rs2 := by
    rw [Int.natAbs_mul, State.natAbs_svalE, State.natAbs_svalE]
  refine ⟨_, rfl, ?_⟩
  rw [hmagnitude]
  exact s.writeW_finish _ (hs.mul_lt_wideRadix rs1 rs2)

/-- Settles O18: SFOLDW writes the residue of the signed W, whatever BARRETT_BOUND is. -/
theorem sfoldwGivesResidue : Obligations.SfoldwGivesResidue := by
  refine fun rd => ⟨decode_of_rd rfl, ?_⟩
  rintro s _ hsized rfl
  have hpos : 0 < s.p := (Variant.p_bounds hsized).1
  exact ⟨_, rfl, _, foldResidue_lt hpos _, dvd_sub_foldResidue hpos _, State.writeE_foldResidue_finish hsized rd _⟩

end Sys2Proof.Machine
end

section
/-!
SUPPORT. The arithmetic of Barrett's listing (42_reduction.md R140, R141): how far its quotient is from floor(x / p), where
w = b^(k-1), m = b^(k+1), and w * m = b^(2k).
-/

namespace Sys2Proof.Machine

variable {w m p x : Nat}

/-- "Each floor in q1, MU and q3 only lowers the value" (42_reduction.md R141). -/
theorem barrett_quotient_le (hm : 0 < m) : x / w * (w * m / p) / m ≤ x / p :=
  calc x / w * (w * m / p) / m ≤ x / w * (w * m) / p / m := Nat.div_le_div_right (Nat.mul_div_le_mul_div_assoc ..)
    _ = x / w * w * m / m / p := by rw [Nat.div_right_comm, Nat.mul_assoc]
    _ = x / w * w / p := by rw [Nat.mul_div_cancel _ hm]
    _ ≤ x / p := Nat.div_le_div_right (Nat.div_mul_le_self x w)

/-- "The standard Barrett bound is q - 2 <= q3": the three floors together lose less than 3 (42_reduction.md R141). -/
theorem lt_barrett_quotient_add_three_mul (hw : 0 < w) (hp : w ≤ p) (hx : x < w * m) :
    x < (x / w * (w * m / p) / m + 3) * p := by
  have hq1 : x < x / w * w + w := Nat.lt_div_mul_add hw
  have hmu : w * m < w * m / p * p + p := Nat.lt_div_mul_add (hw.trans_le hp)
  have hq3 : x / w * (w * m / p) < x / w * (w * m / p) / m * m + m :=
    Nat.lt_div_mul_add (Nat.pos_of_mul_pos_left (Nat.zero_lt_of_lt hx))
  have hkept : x / w * w ≤ w * m := (Nat.div_mul_le_self x w).trans hx.le
  generalize x / w * (w * m / p) / m = q3 at *
  generalize w * m / p = mu at *
  generalize x / w = q1 at *
  refine Nat.lt_of_mul_lt_mul_left (a := w * m) ?_
  calc w * m * x < w * m * (q1 * w + w) := Nat.mul_lt_mul_of_pos_left hq1 (Nat.zero_lt_of_lt hx)
    _ = q1 * w * (w * m) + w * m * w := by ring
    _ ≤ q1 * w * (mu * p + p) + w * m * p := Nat.add_le_add (Nat.mul_le_mul_left _ hmu.le) (Nat.mul_le_mul_left _ hp)
    _ = q1 * mu * (w * p) + q1 * w * p + w * m * p := by ring
    _ ≤ (q3 * m + m) * (w * p) + w * m * p + w * m * p := by gcongr
    _ = w * m * ((q3 + 3) * p) := by ring

/-- The remainder mod m of a difference that is not negative and fits is the difference: the "if negative, add b^(k+1)" of
42_reduction.md R140 undoes the two remainders. -/
theorem wrapped_sub_mod_eq {y : Nat} (hle : y ≤ x) (hfits : x - y < m) :
    (if x % m < y % m then x % m + m - y % m else x % m - y % m) = x - y := by
  have hm : 0 < m := Nat.zero_lt_of_lt hfits
  rw [← toNat_sub_emod (Nat.mod_lt x hm) (Nat.mod_lt y hm)]
  push_cast
  rw [← Int.sub_emod, ← Nat.cast_sub hle, Int.emod_eq_of_lt (Int.natCast_nonneg _) (by exact_mod_cast hfits), Int.toNat_natCast]

end Sys2Proof.Machine
end

section
/-!
SUPPORT. The constants of an instance that Barrett's argument uses (00_scope.md R5 to R9, 42_reduction.md R141).
-/

namespace Sys2Proof.Config

open Sys2Proof.Machine (n_cases)

variable {c : Variant}

/-- b^k in bits (00_scope.md R3). -/
theorem limbBase_pow (k : Nat) : limbBase ^ k = 2 ^ (64 * k) := (pow_mul 2 64 k).symm

/-- The powers of b that q1 and q3 drop make b^(2k) together (42_reduction.md R140). -/
theorem Variant.limbBase_pow_mul (c : Variant) : limbBase ^ (c.n - 1) * limbBase ^ (c.n + 1) = limbBase ^ (2 * c.n) := by
  rw [← Nat.pow_add]
  congr 1
  rcases n_cases c with hn | hn <;> omega

/-- MU in the powers of b that q1 and q3 drop (00_scope.md R7). -/
theorem Variant.mu_eq (c : Variant) : c.mu = limbBase ^ (c.n - 1) * limbBase ^ (c.n + 1) / c.p := by
  rw [c.limbBase_pow_mul, limbBase_pow, Variant.mu, ← Nat.mul_assoc, Nat.mul_comm 64 2]

/-- b^(k-1) <= P (42_reduction.md R141). -/
theorem Variant.limbBase_pow_le_p (h : c.sized = true) : limbBase ^ (c.n - 1) ≤ c.p := by
  cases c with
  | fac256 => decide
  | fac480 p480 bound480 =>
    simp only [Variant.sized, Bool.and_eq_true, decide_eq_true_eq] at h
    obtain ⟨⟨⟨hlow, -⟩, -⟩, -⟩ := h
    rw [limbBase_pow]
    exact (pow_le_pow_right₀ one_le_two (by simp [Variant.n])).trans hlow

/-- 3P < b^(k+1) (42_reduction.md R141). -/
theorem Variant.three_mul_p_lt (h : c.sized = true) : 3 * c.p < limbBase ^ (c.n + 1) := by
  have hradix : c.p < limbBase ^ c.n := limbBase_pow c.n ▸ (Variant.p_bounds h).2
  calc 3 * c.p < limbBase * limbBase ^ c.n := Nat.mul_lt_mul_of_lt_of_le (by decide) hradix.le (Nat.zero_lt_of_lt hradix)
    _ = limbBase ^ (c.n + 1) := (pow_succ' ..).symm

/-- BARRETT_BOUND is at most b^(2k) (00_scope.md R9). -/
theorem Variant.barrettBound_le (h : c.sized = true) : c.barrettBound ≤ limbBase ^ (2 * c.n) := by
  rw [limbBase_pow]
  cases c with
  | fac256 => exact pow_le_pow_right₀ one_le_two (by decide)
  | fac480 p480 bound480 =>
    simp only [Variant.sized, Bool.and_eq_true, decide_eq_true_eq] at h
    exact h.2.trans (pow_le_pow_right₀ one_le_two (by simp [Variant.n]))

end Sys2Proof.Config
end

section
/-!
SUPPORT. What Barrett leaves (42_reduction.md R140 to R142), and what a command that ends with it leaves behind.
-/

namespace Sys2Proof.Machine

open Sys2Proof.Config

variable {c : Variant} {x : Nat}

/-- q3 in the powers of b that it and q1 drop (42_reduction.md R140). -/
theorem barrettQ3_eq (c : Variant) (x : Nat) :
    barrettQ3 c x = x / limbBase ^ (c.n - 1) * (limbBase ^ (c.n - 1) * limbBase ^ (c.n + 1) / c.p) / limbBase ^ (c.n + 1) := by
  rw [barrettQ3, barrettQ2, barrettQ1, c.mu_eq]

/-- q3 <= floor(x / P) (42_reduction.md R141). -/
theorem barrettQ3_mul_le (c : Variant) (x : Nat) : barrettQ3 c x * c.p ≤ x := by
  have hq : barrettQ3 c x ≤ x / c.p := barrettQ3_eq c x ▸ barrett_quotient_le (Nat.pow_pos (by decide))
  exact (Nat.mul_le_mul_right _ hq).trans (Nat.div_mul_le_self x c.p)

/-- "So 0 <= x - q3*P < 3P" (42_reduction.md R141). -/
theorem sub_barrettQ3_mul_lt (hsized : c.sized = true) (hx : x < limbBase ^ (2 * c.n)) : x - barrettQ3 c x * c.p < 3 * c.p := by
  have hlt : x < (barrettQ3 c x + 3) * c.p := by
    rw [barrettQ3_eq]
    exact lt_barrett_quotient_add_three_mul (Nat.pow_pos (by decide)) (Variant.limbBase_pow_le_p hsized)
      (c.limbBase_pow_mul ▸ hx)
  have hle := barrettQ3_mul_le c x
  rw [Nat.add_mul] at hlt
  omega

/-- The value before the final loop is x - q3*P exactly (42_reduction.md R141). -/
theorem barrettRest_eq (hsized : c.sized = true) (hx : x < limbBase ^ (2 * c.n)) :
    barrettRest c x = x - barrettQ3 c x * c.p :=
  wrapped_sub_mod_eq (barrettQ3_mul_le c x) ((sub_barrettQ3_mul_lt hsized hx).trans (Variant.three_mul_p_lt hsized))

/-- The final loop runs at most 2 times (42_reduction.md R141). -/
theorem barrettSteps_le_two (hsized : c.sized = true) (hx : x < limbBase ^ (2 * c.n)) : barrettSteps c x ≤ 2 := by
  rw [barrettSteps, barrettRest_eq hsized hx]
  exact Nat.le_of_lt_succ (Nat.div_lt_of_lt_mul (Nat.mul_comm 3 c.p ▸ sub_barrettQ3_mul_lt hsized hx))

/-- Below its bound Barrett gives the residue (42_reduction.md R141). -/
theorem barrett_of_lt_bound (hsized : c.sized = true) (hx : x < c.barrettBound) : barrett c x = .ok (x % c.p) := by
  have hrest := barrettRest_eq hsized (hx.trans_le (Variant.barrettBound_le hsized))
  rw [barrett, if_neg (Nat.not_le_of_lt hx), hrest, Nat.mul_comm, Nat.sub_mul_mod (Nat.mul_comm .. ▸ barrettQ3_mul_le c x)]

/-- At its bound and above Barrett raises BARRETT_BOUND (42_reduction.md R140). -/
theorem barrett_of_bound_le (hx : c.barrettBound ≤ x) : barrett c x = .error .barrettBound := if_pos hx

variable {s : State}

/-- A command that ends with a residue mod P, which fits an element. -/
theorem State.writeE_mod_finish (hsized : s.inst.variant.sized = true) (rd : Reg) (v : Nat) :
    OnlyElem s (s.writeE rd (v % s.p) false).finish rd (v % s.p) false := by
  obtain ⟨hpos, hradix⟩ := Variant.p_bounds hsized
  exact s.writeE_finish rd false ((Nat.mod_lt v hpos).trans hradix)

/-- A command that ends with Barrett's value: the residue below the bound, else BARRETT_BOUND (42_reduction.md R140). -/
theorem State.finishElem_barrett_residue_or_bound (hsized : s.inst.variant.sized = true) (rd : Reg) (x : Nat) :
    (x < s.inst.variant.barrettBound → ∃ t, s.finishElem rd (barrett s.inst.variant x) = .next t ∧
        OnlyElem s t rd (x % s.p) false) ∧
      (s.inst.variant.barrettBound ≤ x → ∃ t, s.finishElem rd (barrett s.inst.variant x) = .next t ∧ Errored s t 3) := by
  refine ⟨fun hlt => ?_, fun hle => ?_⟩
  · rw [barrett_of_lt_bound hsized hlt]
    exact ⟨_, rfl, State.writeE_mod_finish hsized rd x⟩
  · rw [barrett_of_bound_le hle]
    exact ⟨_, rfl, s.raiseError_errored .barrettBound⟩

/-- In FAC256 every W is below BARRETT_BOUND (42_reduction.md R143). -/
theorem State.Shaped.readW_lt_barrettBound (hs : s.Shaped) (hvariant : s.inst.variant = .fac256) :
    s.readW < s.inst.variant.barrettBound := by
  have hfits : s.inst.variant.wideRadix = s.inst.variant.barrettBound := by
    rw [hvariant]
    exact congrArg (2 ^ ·) (show 128 * 4 = 512 by decide)
  exact hs.readW_lt.trans_eq hfits

end Sys2Proof.Machine
end

section
/-!
PROOF. The reduction family (42_reduction.md R141 to R145).
-/

namespace Sys2Proof.Machine

open Sys2Proof.Config

/-- The word of NORM, written out: RS2 is 0, and the hint fits its field (30_encoding.md R82, R87). -/
theorem decode_norm (rd rs1 : Reg) {hint : Nat} (h : hint < 4096) :
    decode (BitVec.ofNat 64 (0x31 + rd * 2 ^ 8 + rs1 * 2 ^ 12 + hint * 2 ^ 20)) = .ok (.norm rd rs1 hint) := by
  have hround := decodeEncodeRoundTrip (.norm rd rs1 hint) (decide_eq_true h)
  rwa [encode, Instr.fields, Fields.toWord, Nat.zero_mul, Nat.add_zero] at hround

/-- Settles O19: the quotient of the listing is short by at most 2, and never too large. -/
theorem barrettComputesResidue : Obligations.BarrettComputesResidue := fun _ _ hsized hx =>
  ⟨barrett_of_lt_bound hsized, barrettSteps_le_two hsized hx⟩

/-- Settles O20: REDUCE ends with Barrett's value of W. -/
theorem reduceGivesResidueOrBound : Obligations.ReduceGivesResidueOrBound := by
  refine fun rd => ⟨decode_of_rd rfl, fun s hsized => ?_⟩
  obtain ⟨hresidue, hbound⟩ := State.finishElem_barrett_residue_or_bound hsized rd s.readW
  exact ⟨hresidue, hbound, fun hvariant hs => hs.readW_lt_barrettBound hvariant⟩

/-- Settles O21: NORM ends with the residue of E[rs1], which the loop leaves after one test more than the quotient. -/
theorem normGivesResidue : Obligations.NormGivesResidue := by
  refine fun rd rs1 hint hhint => ⟨decode_norm rd rs1 hhint, fun s hsized => ?_⟩
  have hpos : 0 < s.p := (Variant.p_bounds hsized).1
  exact ⟨_, rfl, State.writeE_mod_finish hsized rd _, Nat.mod_lt _ hpos, subtractWhile_of_div_lt hpos (Nat.lt_succ_self _)⟩

end Sys2Proof.Machine
end

section
/-!
SUPPORT. The constants of an instance that the field family uses: the bound on a product of canonical values (00_scope.md
R9, 43_field.md R166), and of element values in FAC256 (R163).
-/

namespace Sys2Proof.Config

variable {c : Variant} {x y : Nat}

theorem Variant.one_lt_p (h : c.sized = true) : 1 < c.p := by
  have hn : c.n - 1 ≠ 0 := by rcases Machine.n_cases c with hn | hn <;> omega
  exact (Nat.one_lt_pow hn (by decide)).trans_le (Variant.limbBase_pow_le_p h)

/-- BARRETT_BOUND of FAC256 is M^2 (00_scope.md R5). -/
theorem Variant.barrettBound_fac256 : Variant.fac256.barrettBound = Variant.fac256.radix ^ 2 := by
  rw [Variant.radix, ← Nat.pow_mul]
  exact congrArg (2 ^ ·) (show 512 = 64 * 4 * 2 by decide)

/-- (P-1)^2 < BARRETT_BOUND (00_scope.md R9). -/
theorem Variant.sq_pred_p_lt_barrettBound (h : c.sized = true) : (c.p - 1) ^ 2 < c.barrettBound := by
  cases c with
  | fac256 =>
    rw [Variant.barrettBound_fac256]
    exact Nat.pow_lt_pow_left (by decide) two_ne_zero
  | fac480 p480 bound480 =>
    simp only [Variant.sized, Bool.and_eq_true, decide_eq_true_eq] at h
    obtain ⟨⟨-, hsquare⟩, -⟩ := h
    exact hsquare

/-- The product of two canonical values is below BARRETT_BOUND (42_reduction.md R142, 43_field.md R166). -/
theorem Variant.mul_lt_barrettBound (h : c.sized = true) (hx : x < c.p) (hy : y < c.p) : x * y < c.barrettBound :=
  calc x * y ≤ (c.p - 1) * (c.p - 1) := Nat.mul_le_mul (Nat.le_sub_one_of_lt hx) (Nat.le_sub_one_of_lt hy)
    _ = (c.p - 1) ^ 2 := (Nat.pow_two _).symm
    _ < c.barrettBound := Variant.sq_pred_p_lt_barrettBound h

/-- In FAC256 the product of any two element values is below BARRETT_BOUND (43_field.md R163). -/
theorem Variant.mul_lt_barrettBound_of_fac256 (h : c = .fac256) (hx : x < c.radix) (hy : y < c.radix) :
    x * y < c.barrettBound := by
  subst h
  rw [Variant.barrettBound_fac256, Nat.pow_two]
  exact Nat.mul_lt_mul'' hx hy

end Sys2Proof.Config
end

section
/-!
SUPPORT. What PowEngine returns (43_field.md R166): the value r is canonical after every round of its loop, so no product
reaches BARRETT_BOUND.
-/

namespace Sys2Proof.Machine

open Sys2Proof.Config

variable {c : Variant} {base r : Nat}

/-- One round squares, and multiplies by the base when the exponent bit is 1 (43_field.md R166). -/
theorem powRound_of_lt (hsized : c.sized = true) (hbase : base < c.p) (hr : r < c.p) (bit : Bool) :
    powRound c base bit r = .ok (r ^ 2 * base ^ bit.toNat % c.p) := by
  have hpos : 0 < c.p := (Variant.p_bounds hsized).1
  have hsquare : barrett c (r * r) = .ok (r ^ 2 % c.p) := by
    rw [barrett_of_lt_bound hsized (Variant.mul_lt_barrettBound hsized hr hr), Nat.pow_two]
  rw [powRound, hsquare]
  cases bit with
  | false => simp
  | true =>
    have hproduct := barrett_of_lt_bound hsized (Variant.mul_lt_barrettBound hsized (Nat.mod_lt (r ^ 2) hpos) hbase)
    simpa using hproduct

/-- The rounds over the exponent bits i-1 to 0 (43_field.md R166). -/
theorem powLoop_of_lt (hsized : c.sized = true) (hbase : base < c.p) (e i : Nat) (hr : r < c.p) :
    powLoop c base e i r = .ok (r ^ 2 ^ i * base ^ (e % 2 ^ i) % c.p) := by
  induction i generalizing r with
  | zero => simp [powLoop, Nat.mod_one, Nat.mod_eq_of_lt hr]
  | succ i ih =>
    have hbit : (decide (e / 2 ^ i % 2 = 1)).toNat = e / 2 ^ i % 2 := by
      rcases Nat.mod_two_eq_zero_or_one (e / 2 ^ i) with h | h <;> simp [h]
    have hround := powRound_of_lt hsized hbase hr (decide (e / 2 ^ i % 2 = 1))
    have hexp : (r ^ 2 * base ^ (e / 2 ^ i % 2)) ^ 2 ^ i * base ^ (e % 2 ^ i)
        = r ^ 2 ^ (i + 1) * base ^ (e % 2 ^ (i + 1)) := by
      rw [Nat.mod_pow_succ]
      ring
    rw [hbit] at hround
    rw [powLoop, hround]
    dsimp only
    rw [ih (Nat.mod_lt _ (Variant.p_bounds hsized).1), ← hexp, Nat.mul_mod, ← Nat.pow_mod, ← Nat.mul_mod]

/-- PowEngine returns the power for every base and every exponent of 64*N bits (43_field.md R166). -/
theorem powEngine_eq_ok (hsized : c.sized = true) (a : Nat) {e : Nat} (he : e < c.radix) :
    powEngine c a e = .ok (a ^ e % c.p) := by
  have hpos : 0 < c.p := (Variant.p_bounds hsized).1
  rw [powEngine, powLoop_of_lt hsized (Nat.mod_lt a hpos) e _ (Variant.one_lt_p hsized), Nat.one_pow, Nat.one_mul,
    ← Nat.pow_mod, Nat.mod_eq_of_lt (show e < 2 ^ (64 * c.n) from he)]

end Sys2Proof.Machine
end

section
/-!
SUPPORT. The inverse by Fermat's little theorem (43_field.md R164, R165), for a prime p.
-/

namespace Sys2Proof.Machine

variable {p a : Nat}

theorem coprime_of_mod_ne_zero (hp : p.Prime) (ha : a % p ≠ 0) : p.Coprime a :=
  hp.coprime_iff_not_dvd.mpr fun hdvd => ha (Nat.mod_eq_zero_of_dvd hdvd)

/-- a times a^(p-2) is 1 mod p (43_field.md R164). -/
theorem mul_fermat_inverse_modEq (hp : p.Prime) (ha : a % p ≠ 0) : a * (a ^ (p - 2) % p) ≡ 1 [MOD p] := by
  have hexp : p - 2 + 1 = p.totient := by
    have htwo := hp.two_le
    rw [Nat.totient_prime hp]
    omega
  calc a * (a ^ (p - 2) % p) ≡ a * a ^ (p - 2) [MOD p] := (Nat.mod_modEq _ _).mul_left a
    _ = a ^ p.totient := by rw [← Nat.pow_succ', Nat.succ_eq_add_one, hexp]
    _ ≡ 1 [MOD p] := Nat.ModEq.pow_totient (coprime_of_mod_ne_zero hp ha).symm

/-- "The unique canonical x with a*x ≡ 1 (mod P)" (43_field.md R164). -/
theorem mul_mod_eq_one_iff_eq_fermat_inverse (hp : p.Prime) (ha : a % p ≠ 0) {x : Nat} (hx : x < p) :
    a * x % p = 1 ↔ x = a ^ (p - 2) % p := by
  have hinv := mul_fermat_inverse_modEq hp ha
  have hone : 1 % p = 1 := Nat.mod_eq_of_lt hp.one_lt
  constructor
  · intro h
    have hx1 : a * x ≡ 1 [MOD p] := h.trans hone.symm
    have hsame : a * x ≡ a * (a ^ (p - 2) % p) [MOD p] := hx1.trans hinv.symm
    exact (Nat.ModEq.cancel_left_of_coprime (coprime_of_mod_ne_zero hp ha) hsame).eq_of_lt_of_lt hx (Nat.mod_lt _ hp.pos)
  · rintro rfl
    exact Eq.trans hinv hone

/-- b times the quotient of a by b is a mod p (43_field.md R165). -/
theorem mul_fermat_quotient_mod {b : Nat} (hp : p.Prime) (hb : b % p ≠ 0) (a : Nat) :
    b * (a * (b ^ (p - 2) % p) % p) % p = a % p := by
  have hinv := mul_fermat_inverse_modEq hp hb
  generalize b ^ (p - 2) % p = y at *
  calc b * (a * y % p) ≡ b * (a * y) [MOD p] := (Nat.mod_modEq _ _).mul_left b
    _ = a * (b * y) := Nat.mul_left_comm b a y
    _ ≡ a * 1 [MOD p] := hinv.mul_left a
    _ = a := Nat.mul_one a

end Sys2Proof.Machine
end

section
/-!
SUPPORT. The value of each field command, one equation per case of its rule (43_field.md R160 to R165), and its value on
canonical operands (R169).
-/

namespace Sys2Proof.Machine

open Sys2Proof.Config

variable {c : Variant} {a b : Nat}

/-- FADD of canonical operands is the sum mod P (43_field.md R160). -/
theorem fieldAdd_of_canonical (hsized : c.sized = true) (ha : a < c.p) (hb : b < c.p) :
    fieldAdd c a b = .ok ((a + b) % c.p) := by
  have hvalue : (if c.p ≤ a + b then a + b - c.p else a + b) = (a + b) % c.p := by
    rw [Nat.add_mod_eq_ite, Nat.mod_eq_of_lt ha, Nat.mod_eq_of_lt hb]
  obtain ⟨hpos, hradix⟩ := Variant.p_bounds hsized
  have hfits := (Nat.mod_lt (a + b) hpos).trans hradix
  obtain ⟨hbig, -⟩ | ⟨-, hok⟩ := fieldAdd_cases c a b
  · omega
  · rw [hok, hvalue]

theorem fieldSub_of_le (h : b ≤ a) : fieldSub c a b = .ok (a - b) := if_pos h

theorem fieldSub_of_borrow (hlt : a < b) (hle : b ≤ a + c.p) : fieldSub c a b = .ok (a + c.p - b) := by
  rw [fieldSub, if_neg (Nat.not_le_of_lt hlt), if_neg (Nat.not_lt_of_le hle)]

theorem fieldSub_of_lt (h : a + c.p < b) : fieldSub c a b = .error .range := by
  rw [fieldSub, if_neg (by omega), if_pos h]

theorem fieldNeg_of_le (h : a ≤ c.p) : fieldNeg c a = .ok (if a = 0 then 0 else c.p - a) := by
  obtain ⟨rfl, hok⟩ | ⟨hpos, -, hok⟩ | ⟨hlt, -⟩ := fieldNeg_cases c a
  · exact hok
  · rw [hok, if_neg hpos.ne']
  · omega

theorem fieldNeg_of_lt (h : c.p < a) : fieldNeg c a = .error .range := by
  rw [fieldNeg, if_neg (by omega), if_neg (Nat.not_le_of_lt h)]

/-- FMUL of canonical operands is the product mod P (43_field.md R163). -/
theorem fieldMul_of_canonical (hsized : c.sized = true) (ha : a < c.p) (hb : b < c.p) :
    fieldMul c a b = .ok (a * b % c.p) :=
  barrett_of_lt_bound hsized (Variant.mul_lt_barrettBound hsized ha hb)

theorem fieldInv_of_mod_eq_zero (h : a % c.p = 0) : fieldInv c a = .error .zeroInverse := if_pos h

theorem fieldInv_of_mod_ne_zero (hsized : c.sized = true) (h : a % c.p ≠ 0) :
    fieldInv c a = .ok (a ^ (c.p - 2) % c.p) := by
  have hexp : c.p - 2 < c.radix := (Nat.sub_le _ _).trans_lt (Variant.p_bounds hsized).2
  rw [fieldInv, if_neg h, powEngine_eq_ok hsized a hexp]

/-- A divisor congruent to 0 is reported first, whatever the dividend (43_field.md R165). -/
theorem fieldDiv_of_mod_eq_zero (a : Nat) (h : b % c.p = 0) : fieldDiv c a b = .error .zeroInverse := by
  rw [fieldDiv, fieldInv_of_mod_eq_zero h]

theorem fieldDiv_of_mod_ne_zero (hsized : c.sized = true) (a : Nat) (h : b % c.p ≠ 0) :
    fieldDiv c a b = barrett c (a * (b ^ (c.p - 2) % c.p)) := by
  rw [fieldDiv, fieldInv_of_mod_ne_zero hsized h]
  rfl

/-- FDIV of canonical operands (43_field.md R165). -/
theorem fieldDiv_of_canonical (hsized : c.sized = true) (ha : a < c.p) (h : b % c.p ≠ 0) :
    fieldDiv c a b = .ok (a * (b ^ (c.p - 2) % c.p) % c.p) := by
  rw [fieldDiv_of_mod_ne_zero hsized a h]
  exact fieldMul_of_canonical hsized ha (Nat.mod_lt _ (Variant.p_bounds hsized).1)

variable {s t : State} {rd : Reg} {v : Nat} {x : Except ErrCode Nat} {code : ErrCode}

/-- A command whose value is found and fits an element. -/
theorem State.finishElem_of_ok (hx : x = .ok v) (hv : v < s.radix) :
    ∃ t, s.finishElem rd x = .next t ∧ OnlyElem s t rd v false :=
  ⟨_, congrArg (s.finishElem rd) hx, s.writeE_finish rd false hv⟩

/-- A command whose value is an error. -/
theorem State.finishElem_of_error (hx : x = .error code) :
    ∃ t, s.finishElem rd x = .next t ∧ Errored s t code.code :=
  ⟨_, congrArg (s.finishElem rd) hx, s.raiseError_errored code⟩

/-- A command that ended with a canonical value wrote it to its destination, and nothing else (43_field.md R169). -/
theorem State.canonical_of_finishElem_ok {i : Instr} (hsized : s.inst.variant.sized = true) (hdest : destOf i = some rd)
    (hx : x = .ok v) (hv : v < s.p) (h : s.finishElem rd x = .next t) :
    ∃ rd v, destOf i = some rd ∧ v < s.p ∧ OnlyElem s t rd v false := by
  subst hx
  cases h
  exact ⟨rd, v, hdest, hv, s.writeE_finish rd false (hv.trans (Variant.p_bounds hsized).2)⟩

/-- A command that ended with an error changed STATUS alone. -/
theorem State.errored_of_finishElem_error (hx : x = .error code) (h : s.finishElem rd x = .next t) :
    Errored s t code.code := by
  subst hx
  cases h
  exact s.raiseError_errored code

end Sys2Proof.Machine
end

section
/-!
PROOF. The field family (43_field.md R160 to R165, R168): what each command leaves behind.
-/

namespace Sys2Proof.Machine

open Sys2Proof.Config

/-- Settles O27: the loop over all 64*N bits, from r = 1. -/
theorem powEngineComputesPower : Obligations.PowEngineComputesPower := fun _ a _ hsized _ he =>
  powEngine_eq_ok hsized a he

/-- Settles O23: the two cases of FADD's value. -/
theorem faddSubtractsOnce : Obligations.FaddSubtractsOnce := by
  refine fun rd rs1 rs2 => ⟨decode_of_rd_rs1_rs2 rfl, ?_⟩
  rintro s _ rfl
  obtain ⟨hbig, herror⟩ | ⟨hfits, hok⟩ := fieldAdd_cases s.inst.variant (s.readE rs1) (s.readE rs2)
  · exact ⟨fun hfits => absurd hbig (Nat.not_le_of_lt hfits), fun _ => State.finishElem_of_error herror⟩
  · exact ⟨fun _ => State.finishElem_of_ok hok hfits, fun hbig => absurd hbig (Nat.not_le_of_lt hfits)⟩

/-- Settles O24: without a borrow the difference is at most the minuend, with one it is below P. -/
theorem fsubAddsOnce : Obligations.FsubAddsOnce := by
  refine fun rd rs1 rs2 => ⟨decode_of_rd_rs1_rs2 rfl, fun s hsized hs => ?_⟩
  refine ⟨fun hle => ?_, fun hlt hle => ?_, fun hlt => ?_⟩
  · exact State.finishElem_of_ok (fieldSub_of_le hle) ((Nat.sub_le _ _).trans_lt (hs.readE_lt rs1))
  · have hradix : s.p < s.radix := (Variant.p_bounds hsized).2
    exact State.finishElem_of_ok (fieldSub_of_borrow hlt hle) (show s.readE rs1 + s.p - s.readE rs2 < s.radix by omega)
  · exact State.finishElem_of_error (fieldSub_of_lt hlt)

/-- Settles O25: P less an element is at most P, which fits. -/
theorem fnegSubtractsFromModulus : Obligations.FnegSubtractsFromModulus := by
  refine fun rd rs1 => ⟨decode_of_rd_rs1 rfl, fun s hsized => ⟨fun hle => ?_, fun hlt => ?_⟩⟩
  · have hradix : s.p < s.radix := (Variant.p_bounds hsized).2
    refine State.finishElem_of_ok (fieldNeg_of_le hle) (lt_of_le_of_lt ?_ hradix)
    split
    · exact Nat.zero_le _
    · exact Nat.sub_le _ _
  · exact State.finishElem_of_error (fieldNeg_of_lt hlt)

/-- Settles O26: FMUL ends with Barrett's value of the product. -/
theorem fmulGivesProductResidue : Obligations.FmulGivesProductResidue := by
  refine fun rd rs1 rs2 => ⟨decode_of_rd_rs1_rs2 rfl, fun s hsized => ?_⟩
  obtain ⟨hresidue, hbound⟩ := State.finishElem_barrett_residue_or_bound hsized rd (s.readE rs1 * s.readE rs2)
  exact ⟨hresidue, hbound, fun hvariant hs =>
    Variant.mul_lt_barrettBound_of_fac256 hvariant (hs.readE_lt rs1) (hs.readE_lt rs2)⟩

/-- Settles O28: FINV ends with PowEngine's power, the inverse by Fermat's little theorem. -/
theorem finvGivesInverseOrZeroInverse : Obligations.FinvGivesInverseOrZeroInverse := by
  refine fun rd rs1 => ⟨decode_of_rd_rs1 rfl, ?_⟩
  rintro s _ hsized rfl
  obtain ⟨hpos, hradix⟩ := Variant.p_bounds hsized
  exact ⟨fun hne => State.finishElem_of_ok (fieldInv_of_mod_ne_zero hsized hne) ((Nat.mod_lt _ hpos).trans hradix),
    fun hne hp _ hx => mul_mod_eq_one_iff_eq_fermat_inverse hp hne hx,
    fun hzero => State.finishElem_of_error (fieldInv_of_mod_eq_zero hzero)⟩

/-- Settles O29: past the check of its divisor, FDIV ends with Barrett's value of a times the inverse. -/
theorem fdivMultipliesByInverse : Obligations.FdivMultipliesByInverse := by
  refine fun rd rs1 rs2 => ⟨decode_of_rd_rs1_rs2 rfl, ?_⟩
  rintro s _ hsized rfl
  obtain ⟨hpos, hradix⟩ := Variant.p_bounds hsized
  have hinv : s.readE rs2 ^ (s.p - 2) % s.p < s.p := Nat.mod_lt _ hpos
  obtain ⟨hresidue, hbound⟩ := State.finishElem_barrett_residue_or_bound hsized rd
    (s.readE rs1 * (s.readE rs2 ^ (s.p - 2) % s.p))
  have hexec (hne : s.readE rs2 % s.p ≠ 0) : exec (.fdiv rd rs1 rs2) s =
      s.finishElem rd (barrett s.inst.variant (s.readE rs1 * (s.readE rs2 ^ (s.p - 2) % s.p))) :=
    congrArg (s.finishElem rd) (fieldDiv_of_mod_ne_zero hsized _ hne)
  refine ⟨fun hzero => State.finishElem_of_error (fieldDiv_of_mod_eq_zero _ hzero), fun hne => hexec hne ▸ hresidue,
    fun hne hp => ⟨mul_fermat_quotient_mod hp hne _, ?_⟩, fun hne => hexec hne ▸ hbound,
    fun hvariant hs => Variant.mul_lt_barrettBound_of_fac256 hvariant (hs.readE_lt rs1) (hinv.trans hradix)⟩
  rintro rfl
  exact (mul_mod_eq_one_iff_eq_fermat_inverse hp hne hinv).mpr rfl

/-- Settles O30: every exponent of the register has 64*N bits, so PowEngine returns the power. -/
theorem fpowGivesPower : Obligations.FpowGivesPower := by
  refine fun rd rs1 rs2 => ⟨decode_of_rd_rs1_rs2 rfl, fun s hsized hs => ?_⟩
  obtain ⟨hpos, hradix⟩ := Variant.p_bounds hsized
  obtain ⟨t, hnext, honly⟩ := State.finishElem_of_ok (powEngine_eq_ok hsized (s.readE rs1) (hs.readE_lt rs2))
    ((Nat.mod_lt _ hpos).trans hradix)
  refine ⟨t, hnext, honly, fun hzero => ?_⟩
  rw [honly.elem.value, hzero, Nat.pow_zero]
  exact Nat.mod_eq_of_lt (Variant.one_lt_p hsized)

end Sys2Proof.Machine
end

section
/-!
PROOF. The laws of the field family (43_field.md R169).
-/

namespace Sys2Proof.Machine

open Sys2Proof.Config

/-- Settles O31: on canonical operands the functions are the sum, the product and the inverse mod P. -/
theorem fieldAxiomsHold : Obligations.FieldAxiomsHold := by
  rintro c x y z ⟨hsized, hp⟩ hx hy hz
  have hlt (v : Nat) : v % c.p < c.p := Nat.mod_lt v hp.pos
  refine ⟨⟨_, _, fieldAdd_of_canonical hsized hx hy, ?comm, fieldAdd_of_canonical hsized hy hz,
    ⟨_, fieldAdd_of_canonical hsized (hlt _) hz, ?assoc⟩,
    _, _, _, fieldMul_of_canonical hsized hx hy, fieldMul_of_canonical hsized hx hz,
    fieldMul_of_canonical hsized hx (hlt _), ?distrib⟩, fun hne => ?inverse⟩
  case comm => rw [fieldAdd_of_canonical hsized hy hx, Nat.add_comm]
  case assoc => rw [fieldAdd_of_canonical hsized hx (hlt _), Nat.add_mod_mod, Nat.mod_add_mod, Nat.add_assoc]
  case distrib => rw [fieldAdd_of_canonical hsized (hlt _) (hlt _), ← Nat.add_mod, Nat.mul_mod_mod, Nat.mul_add]
  case inverse =>
    have hmod : x % c.p ≠ 0 := by rwa [Nat.mod_eq_of_lt hx]
    have hone := (mul_mod_eq_one_iff_eq_fermat_inverse hp hmod (hlt _)).mpr rfl
    refine ⟨⟨_, fieldInv_of_mod_ne_zero hsized hmod, ?_⟩, ?_⟩
    · rw [fieldMul_of_canonical hsized hx (hlt _), hone]
    · rw [fieldDiv_of_canonical hsized hx hmod, hone]

/-- Settles O32: on canonical operands each command's value is a residue, or the inverse of 0 is asked for. -/
theorem fieldResultsAreCanonical : Obligations.FieldResultsAreCanonical := by
  intro s t i hsized hop hsources h
  have hlt (v : Nat) : v % s.p < s.p := Nat.mod_lt v (Variant.p_bounds hsized).1
  cases i with
  | fadd rd rs1 rs2 =>
    have ha := hsources rs1 (.head _)
    have hb := hsources rs2 (.tail _ (.head _))
    exact .inl (State.canonical_of_finishElem_ok hsized rfl (fieldAdd_of_canonical hsized ha hb) (hlt _) h)
  | fsub rd rs1 rs2 =>
    have ha := hsources rs1 (.head _)
    have hb := hsources rs2 (.tail _ (.head _))
    rcases Nat.lt_or_ge (s.readE rs1) (s.readE rs2) with hborrow | hle
    · refine .inl (State.canonical_of_finishElem_ok hsized rfl
        (fieldSub_of_borrow hborrow (hb.le.trans (Nat.le_add_left _ _))) ?_ h)
      change s.readE rs1 + s.p - s.readE rs2 < s.p
      omega
    · exact .inl (State.canonical_of_finishElem_ok hsized rfl (fieldSub_of_le hle) ((Nat.sub_le _ _).trans_lt ha) h)
  | fneg rd rs1 =>
    have ha := hsources rs1 (.head _)
    refine .inl (State.canonical_of_finishElem_ok hsized rfl (fieldNeg_of_le ha.le) ?_ h)
    change (if s.readE rs1 = 0 then 0 else s.p - s.readE rs1) < s.p
    split <;> omega
  | fmul rd rs1 rs2 =>
    have ha := hsources rs1 (.head _)
    have hb := hsources rs2 (.tail _ (.head _))
    exact .inl (State.canonical_of_finishElem_ok hsized rfl (fieldMul_of_canonical hsized ha hb) (hlt _) h)
  | finv rd rs1 =>
    have ha := hsources rs1 (.head _)
    by_cases hzero : s.readE rs1 % s.p = 0
    · exact .inr ⟨.inl rfl, State.errored_of_finishElem_error (fieldInv_of_mod_eq_zero hzero) h, rs1,
        .head _, Nat.mod_eq_of_lt ha ▸ hzero⟩
    · exact .inl (State.canonical_of_finishElem_ok hsized rfl (fieldInv_of_mod_ne_zero hsized hzero) (hlt _) h)
  | fdiv rd rs1 rs2 =>
    have ha := hsources rs1 (.head _)
    have hb := hsources rs2 (.tail _ (.head _))
    by_cases hzero : s.readE rs2 % s.p = 0
    · exact .inr ⟨.inr rfl, State.errored_of_finishElem_error (fieldDiv_of_mod_eq_zero _ hzero) h, rs2,
        .tail _ (.head _), Nat.mod_eq_of_lt hb ▸ hzero⟩
    · exact .inl (State.canonical_of_finishElem_ok hsized rfl (fieldDiv_of_canonical hsized ha hzero) (hlt _) h)
  | fpow rd rs1 rs2 =>
    have he := hsources rs2 (.tail _ (.head _))
    exact .inl (State.canonical_of_finishElem_ok hsized rfl
      (powEngine_eq_ok hsized _ (he.trans (Variant.p_bounds hsized).2)) (hlt _) h)
  | add | sub | mulw | cmp | shl1 | shr1 | sadd | ssub | smulw | sfold | sfoldw | reduce | norm => simp [Instr.op] at hop

end Sys2Proof.Machine
end

section
/-!
SUPPORT. Which errors the commands raise (60_exceptions.md R201): what each end of a command tells of the error it entered,
and the values that can be errors.
-/

namespace Sys2Proof.Machine

open Sys2Proof.Config

variable {s t : State} {rd : Reg}

/-- A command that ends with ERR = 1, where ERR was 0, has entered an error (60_exceptions.md R203). -/
theorem exec_error {i : Instr} (hclear : s.status.err = false) (h : exec i s = .next t) (herr : t.status.err = true) :
    ∃ c, t = s.raiseError c := by
  rcases exec_next_cases h with
    hraised | ⟨rd, v, neg, -, rfl⟩ | ⟨rd, v, c, -, -, rfl⟩ | ⟨v, neg, -, rfl⟩ | ⟨a, b, -, rfl⟩
  · exact hraised
  all_goals cases hclear.symm.trans herr

/-- The engine's turn that ends with ERR = 1, where ERR was 0, has entered an error. -/
theorem engineTurn_error (hclear : s.status.err = false) (h : engineTurn s = .next t) (herr : t.status.err = true) :
    ∃ c, t = s.raiseError c := by
  rcases engineTurn_next_cases h with ⟨-, rfl⟩ | ⟨v, -, ⟨r, -, rfl⟩ | ⟨i, -, hexec⟩⟩
  · cases hclear.symm.trans herr
  · exact ⟨.illegal, rfl⟩
  · exact exec_error hclear hexec herr

/-- A signed command that ends with ERR = 1 has raised RANGE (41_signed.md R121, R122). -/
theorem State.errcode_of_finishSigned {v : Int} (hclear : s.status.err = false) (h : s.finishSigned rd v = .next t)
    (herr : t.status.err = true) : t.status.errcode = ErrCode.range.code := by
  rcases s.finishSigned_cases rd v with ⟨-, hraise⟩ | ⟨-, hwrite⟩
  · cases hraise.symm.trans h
    rfl
  · cases hwrite.symm.trans h
    cases hclear.symm.trans herr

/-- A command with a value for E[rd] that ends with ERR = 1 had an error for its value, and STATUS records that. -/
theorem State.errcode_of_finishElem {x : Except ErrCode Nat} (hclear : s.status.err = false)
    (h : s.finishElem rd x = .next t) (herr : t.status.err = true) : ∃ c, x = .error c ∧ t.status.errcode = c.code := by
  cases x with
  | ok v =>
    cases h
    cases hclear.symm.trans herr
  | error c =>
    cases h
    exact ⟨c, rfl, rfl⟩

/-- Where one error alone can be the value, STATUS records that one. -/
theorem State.errcode_of_finishElem_unique {x : Except ErrCode Nat} {code : ErrCode} (hclear : s.status.err = false)
    (h : s.finishElem rd x = .next t) (herr : t.status.err = true) (hx : ∀ c, x = .error c → c = code) :
    t.status.errcode = code.code := by
  obtain ⟨c, herror, hcode⟩ := State.errcode_of_finishElem hclear h herr
  exact hx c herror ▸ hcode

/-- A command that ends with Barrett's value raises BARRETT_BOUND alone, for an input that reaches it (42_reduction.md R140). -/
theorem State.errcode_of_finishElem_barrett {x : Nat} (hclear : s.status.err = false)
    (h : s.finishElem rd (barrett s.inst.variant x) = .next t) (herr : t.status.err = true) :
    t.status.errcode = ErrCode.barrettBound.code ∧ s.inst.variant.barrettBound ≤ x := by
  obtain ⟨c, hx, hcode⟩ := State.errcode_of_finishElem hclear h herr
  rcases barrett_cases s.inst.variant x with ⟨hle, herror⟩ | ⟨-, hok⟩
  · cases herror.symm.trans hx
    exact ⟨hcode, hle⟩
  · cases hok.symm.trans hx

variable {c : Variant} {a b : Nat} {x : ErrCode}

/-- FADD raises RANGE alone (43_field.md R160). -/
theorem fieldAdd_error (h : fieldAdd c a b = .error x) : x = .range := by
  rcases fieldAdd_cases c a b with ⟨-, hv⟩ | ⟨-, hv⟩ <;> cases hv.symm.trans h
  rfl

/-- FSUB raises RANGE alone (43_field.md R161). -/
theorem fieldSub_error (h : fieldSub c a b = .error x) : x = .range := by
  rcases fieldSub_cases c a b with ⟨-, hv⟩ | ⟨-, hv⟩ | ⟨-, -, hv⟩ <;> cases hv.symm.trans h
  rfl

/-- FNEG raises RANGE alone (43_field.md R162). -/
theorem fieldNeg_error (h : fieldNeg c a = .error x) : x = .range := by
  rcases fieldNeg_cases c a with ⟨-, hv⟩ | ⟨-, -, hv⟩ | ⟨-, hv⟩ <;> cases hv.symm.trans h
  rfl

/-- Within the size constraints FINV raises ZERO_INVERSE alone (43_field.md R164). -/
theorem fieldInv_error_of_sized (hsized : c.sized = true) (h : fieldInv c a = .error x) : x = .zeroInverse := by
  by_cases hzero : a % c.p = 0
  · cases (fieldInv_of_mod_eq_zero hzero).symm.trans h
    rfl
  · cases (fieldInv_of_mod_ne_zero hsized hzero).symm.trans h

end Sys2Proof.Machine
end

section
/-!
PROOF. Errors are precise (60_exceptions.md R203), which command raises which (R201), and the return from an error (R206).
-/

namespace Sys2Proof.Machine

open Sys2Proof.Config

variable {s t : State}

/-- Settles O34: the next state is the one that error entry leaves. -/
theorem errorsArePrecise : Obligations.ErrorsArePrecise := by
  intro s t v _ hclear h herr
  obtain ⟨c, rfl⟩ := engineTurn_error hclear h herr
  exact ⟨⟨c, s.raiseError_errored c⟩, rfl, rfl, rfl, rfl, rfl, rfl⟩

/-- The code of the error that a command of a sized instance ends in (60_exceptions.md R201). -/
theorem exec_errcode {i : Instr} (hsized : s.inst.variant.sized = true) (hs : s.Shaped) (hclear : s.status.err = false)
    (h : exec i s = .next t) (herr : t.status.err = true) :
    (t.status.errcode = 2 ∧ i.op ∈ [Op.fadd, .fsub, .fneg, .sadd, .ssub]) ∨
      (t.status.errcode = 3 ∧ i.op ∈ [Op.reduce, .fmul, .fdiv] ∧ s.inst.variant ≠ .fac256) ∨
      (t.status.errcode = 4 ∧ i.op ∈ [Op.finv, .fdiv]) := by
  cases i with
  | add | sub | mulw | cmp | shl1 | shr1 | smulw | sfold | sfoldw | norm =>
    cases h
    cases hclear.symm.trans herr
  | sadd | ssub => exact .inl ⟨State.errcode_of_finishSigned hclear h herr, by simp [Instr.op]⟩
  | fadd =>
    exact .inl ⟨State.errcode_of_finishElem_unique hclear h herr fun _ => fieldAdd_error, by simp [Instr.op]⟩
  | fsub =>
    exact .inl ⟨State.errcode_of_finishElem_unique hclear h herr fun _ => fieldSub_error, by simp [Instr.op]⟩
  | fneg =>
    exact .inl ⟨State.errcode_of_finishElem_unique hclear h herr fun _ => fieldNeg_error, by simp [Instr.op]⟩
  | reduce =>
    obtain ⟨hcode, hle⟩ := State.errcode_of_finishElem_barrett hclear h herr
    exact .inr (.inl ⟨hcode, by simp [Instr.op], fun hvariant => hle.not_gt (hs.readW_lt_barrettBound hvariant)⟩)
  | fmul rd rs1 rs2 =>
    obtain ⟨hcode, hle⟩ := State.errcode_of_finishElem_barrett hclear h herr
    exact .inr (.inl ⟨hcode, by simp [Instr.op], fun hvariant =>
      hle.not_gt (Variant.mul_lt_barrettBound_of_fac256 hvariant (hs.readE_lt rs1) (hs.readE_lt rs2))⟩)
  | finv =>
    have hcode := State.errcode_of_finishElem_unique hclear h herr fun _ => fieldInv_error_of_sized hsized
    exact .inr (.inr ⟨hcode, by simp [Instr.op]⟩)
  | fdiv rd rs1 rs2 =>
    obtain ⟨hpos, hradix⟩ := Variant.p_bounds hsized
    by_cases hzero : s.readE rs2 % s.p = 0
    · obtain ⟨c, hx, hcode⟩ := State.errcode_of_finishElem hclear h herr
      cases (fieldDiv_of_mod_eq_zero _ hzero).symm.trans hx
      exact .inr (.inr ⟨hcode, by simp [Instr.op]⟩)
    · have hbarrett := (congrArg (s.finishElem rd) (fieldDiv_of_mod_ne_zero hsized (s.readE rs1) hzero)).symm.trans h
      obtain ⟨hcode, hle⟩ := State.errcode_of_finishElem_barrett hclear hbarrett herr
      exact .inr (.inl ⟨hcode, by simp [Instr.op], fun hvariant => hle.not_gt
        (Variant.mul_lt_barrettBound_of_fac256 hvariant (hs.readE_lt rs1) ((Nat.mod_lt _ hpos).trans hradix))⟩)
  | fpow rd rs1 rs2 =>
    obtain ⟨c, hx, -⟩ := State.errcode_of_finishElem hclear h herr
    cases (powEngine_eq_ok hsized (s.readE rs1) (hs.readE_lt rs2)).symm.trans hx

/-- Settles O35: ILLEGAL is the decoder's alone, and each command raises the errors its value can be. -/
theorem errorCodesByCommand : Obligations.ErrorCodesByCommand := by
  intro s t v hsized hs he hclear h herr
  rcases engineTurn_next_cases h with ⟨hidle, -⟩ | ⟨u, hu, hrun⟩
  · cases hidle.symm.trans he
  · cases hu.symm.trans he
    rcases hrun with ⟨r, hd, rfl⟩ | ⟨i, hd, hexec⟩
    · exact .inl ⟨rfl, r, hd⟩
    · exact .inr ⟨i, hd, exec_errcode hsized hs hclear hexec herr⟩

/-- Settles O56: a CMD write is ignored while ERR = 1, and accepted after the STATUS write that clears it. -/
theorem errorReturn : Obligations.ErrorReturn := by
  intro s v x rest hrst hb herr hv
  refine ⟨fun hi => ?_, fun hi => ?_⟩
  · obtain ⟨-, hignored, -⟩ := cmdWriteThreeCases s x rest hrst hi
    exact hignored hb herr
  · have hclear := (statusReadAndClear s _ hrst).2 v hi
    rw [if_pos hv] at hclear
    obtain ⟨-, -, haccepted⟩ := cmdWriteThreeCases { s with
      status := { s.status with err := false, errcode := 0 }
      inputs := .access (.write (s.inst.facBase + 0x010) 8 x) :: rest, rdata := none } x rest hrst rfl
    exact ⟨hclear, (runSteps_succ hclear).trans (runSteps_succ (haccepted hb rfl))⟩

end Sys2Proof.Machine
end

section
/-!
PROOF. The outcomes of a step (60_exceptions.md R216): a command always answers, so a step that stops has a refused host
access at the head of its inputs.
-/

namespace Sys2Proof.Machine

variable {s : State}

/-- Every command answers a next state. -/
theorem exec_answers (i : Instr) (s : State) : ∃ t, exec i s = .next t := by
  rcases exec_cases i s with ⟨c, -, h⟩ | ⟨rd, v, neg, -, h⟩ | ⟨rd, v, c, -, -, h⟩ | ⟨v, neg, -, h⟩ | ⟨a, b, -, h⟩ <;>
    exact ⟨_, h⟩

/-- The engine's turn answers a next state (70_reset_and_hazards.md R250). -/
theorem engineTurn_answers (s : State) : ∃ t, engineTurn s = .next t := by
  cases he : s.engine with
  | idle => exact ⟨s, engineTurn_idle he⟩
  | running v =>
    rw [engineTurn_running he]
    cases hd : decode v with
    | error r => exact ⟨_, runLatched_illegal hd⟩
    | ok i => exact runLatched_ok hd ▸ exec_answers i s

/-- A step answers a next state, or the host access at the head of the inputs faults. -/
theorem step_answers_or_access_faults (s : State) :
    (∃ t, step s = .next t) ∨ ∃ a rest f, s.inputs = .access a :: rest ∧ step s = .fault f ∧
      hostAccess a { s with inputs := rest } = .fault f := by
  cases hi : s.inputs with
  | nil => exact .inl (step_nil hi ▸ engineTurn_answers s)
  | cons x rest =>
    rw [step_cons hi]
    cases x with
    | engineTurn => exact .inl (engineTurn_answers _)
    | rstLevel level => exact .inl ⟨_, rfl⟩
    | access a =>
      cases h : hostAccess a { s with inputs := rest } with
      | next t => exact .inl ⟨t, h⟩
      | fault f => exact .inr ⟨a, rest, f, rfl, h, h⟩
      | refused r => exact absurd h (hostAccess_ne_refused _ _ _)

/-- Outside the window no FAC answers (20_memory.md R50). -/
theorem hostAccess_outside {a : Access} (h : a.addr < s.inst.facBase ∨ s.inst.facBase + 4096 ≤ a.addr) :
    hostAccess a s = .fault (.outsideWindow a) := by
  rw [hostAccess, State.target, if_pos (by exact h)]

/-- A fault of an access is the bus error, or the address is outside the window. -/
theorem hostAccess_fault_cases {a : Access} {f : Fault} (h : hostAccess a s = .fault f) :
    (∃ why, f = .hostBusError a why) ∨
      (f = .outsideWindow a ∧ (a.addr < s.inst.facBase ∨ s.inst.facBase + 4096 ≤ a.addr)) := by
  by_cases hout : a.addr < s.inst.facBase ∨ s.inst.facBase + 4096 ≤ a.addr
  · cases (hostAccess_outside hout).symm.trans h
    exact .inr ⟨rfl, hout⟩
  · obtain ⟨hlow, hhigh⟩ := not_or.mp hout
    exact .inl (hostAccess_fault h (Nat.le_of_not_lt hlow) (Nat.lt_of_not_le hhigh))

/-- An access that reads an unwritten limb is a read of a slot while BUSY = 0, which the FAC answers (20_memory.md R58). -/
theorem hostAccess_answers_of_readsUnwritten {a : Access} (h : inputReadsUnwritten (.access a) s = true) :
    ∃ t, hostAccess a s = .next t := by
  cases a with
  | write => cases h
  | read addr width =>
    rw [inputReadsUnwritten] at h
    cases ht : s.target (.read addr width) with
    | error f =>
      rw [ht] at h
      cases h
    | ok r =>
      have hidle : s.status.busy = false := by
        rw [ht] at h
        cases r with
        | e | w =>
          simp only [Bool.and_eq_true, Bool.not_eq_true'] at h
          exact h.1
        | id | config | cmd | status | flags | signs | p | mu => cases h
      refine ⟨{ s with rdata := some (s.readReg r) }, ?_⟩
      simp [hostAccess, ht, State.hostRead, hidle]

/-- Settles O60: a step that stops does so on the access at the head, and an access that reads an unwritten limb is answered. -/
theorem stepOutcomes : Obligations.StepOutcomes := by
  intro s
  rcases step_answers_or_access_faults s with ⟨t, ht⟩ | ⟨a, rest, f, hi, hstep, hfault⟩
  · rw [ht]
    exact ⟨nofun, nofun, fun _ => ⟨t, rfl⟩⟩
  · rw [hstep]
    refine ⟨nofun, ?_, fun hreads => ?_⟩
    · rintro _ ⟨⟩
      exact ⟨a, rest, hi, hostAccess_fault_cases (s := { s with inputs := rest }) hfault⟩
    · rw [stepReadsUnwritten, hi] at hreads
      obtain ⟨t, ht⟩ := hostAccess_answers_of_readsUnwritten hreads
      cases ht.symm.trans hfault

end Sys2Proof.Machine
end

section
/-!
PROOF. What every command leaves behind whatever it computes: it has ended, and all that surrounds the engine is as before
(70_reset_and_hazards.md R250, R252).
-/

namespace Sys2Proof.Machine

variable {s t : State}

/-- A command that answers has ended, with an error or without (70_reset_and_hazards.md R250). -/
theorem exec_ends {i : Instr} (h : exec i s = .next t) :
    t.status.busy = false ∧ t.status.done = true ∧ t.engine = .idle := by
  rcases exec_next_cases h with
    ⟨c, rfl⟩ | ⟨rd, v, neg, -, rfl⟩ | ⟨rd, v, c, -, -, rfl⟩ | ⟨v, neg, -, rfl⟩ | ⟨a, b, -, rfl⟩
  all_goals exact ⟨rfl, rfl, rfl⟩

/-- The engine's turn ends the running command, be the latched value legal or not. -/
theorem engineTurn_ends {v : Word} (he : s.engine = .running v) (h : engineTurn s = .next t) :
    t.status.busy = false ∧ t.status.done = true ∧ t.engine = .idle := by
  rcases engineTurn_next_cases h with ⟨hidle, -⟩ | ⟨u, -, ⟨r, -, rfl⟩ | ⟨i, -, hexec⟩⟩
  · cases hidle.symm.trans he
  · exact ⟨rfl, rfl, rfl⟩
  · exact exec_ends hexec

/-- The engine's turn leaves LASTCMD, the instance and the outside as they are (10_state.md R29, R33). -/
theorem engineTurn_frame (h : engineTurn s = .next t) :
    t.lastcmd = s.lastcmd ∧ t.inst = s.inst ∧ t.rst = s.rst ∧ t.inputs = s.inputs ∧ t.rdata = s.rdata := by
  rcases engineTurn_next_cases h with ⟨-, rfl⟩ | ⟨v, -, ⟨r, -, rfl⟩ | ⟨i, -, hexec⟩⟩
  · exact ⟨rfl, rfl, rfl, rfl, rfl⟩
  · exact ⟨rfl, rfl, rfl, rfl, rfl⟩
  · obtain ⟨-, -, -, -, hframe⟩ := commandFrame i s t hexec
    exact hframe

/-- In a state of the invariant a running engine has BUSY = 1 and nothing else in STATUS (10_state.md R28, R34). -/
theorem State.Inv.status_of_running {v : Word} (hs : s.Inv) (he : s.engine = .running v) :
    s.status = { busy := true, done := false, err := false, errcode := 0 } := by
  obtain ⟨-, ⟨hcode, hclear, -, hdone, -⟩, -, hengine, -⟩ := hs
  simp only [State.engineOk, he, Bool.and_eq_true] at hengine
  obtain ⟨hbusy, -⟩ := hengine
  calc s.status = ⟨s.status.busy, s.status.done, s.status.err, s.status.errcode⟩ := rfl
    _ = _ := by rw [hbusy, hdone hbusy, hclear hbusy, hcode (hclear hbusy)]

/-- In a state of the invariant BUSY = 0 while the engine is idle. -/
theorem State.Inv.busy_of_idle (hs : s.Inv) (he : s.engine = .idle) : s.status.busy = false := by
  obtain ⟨-, -, -, hengine, -⟩ := hs
  simpa [State.engineOk, he] using hengine

/-- After the engine's turn nothing runs. -/
theorem State.Inv.busy_of_engineTurn (hs : s.Inv) (h : engineTurn s = .next t) : t.status.busy = false := by
  cases he : s.engine with
  | idle =>
    cases (engineTurn_idle he).symm.trans h
    exact hs.busy_of_idle he
  | running v =>
    obtain ⟨hbusy, -⟩ := engineTurn_ends he h
    exact hbusy

/-- Settles O33: whatever a command does, it ends by completion or by error entry. -/
theorem everyCommandCompletes : Obligations.EveryCommandCompletes := by
  intro i s
  obtain ⟨t, h⟩ := exec_answers i s
  exact ⟨t, h, exec_ends h⟩

/-- Settles O6: the engine's turn is next, it runs the latched value, and this decodes to the instruction. -/
theorem stepRunsDecodedCommand : Obligations.StepRunsDecodedCommand := by
  intro s v i he hd
  have turn (u : State) (hu : u.engine = .running v) : engineTurn u = exec i u :=
    (engineTurn_running hu).trans (runLatched_ok hd)
  exact ⟨fun hi => (step_nil hi).trans (turn s he), fun _ hi => (step_cons hi).trans (turn _ he)⟩

end Sys2Proof.Machine
end

section
/-!
PROOF. What a command's results depend on (70_reset_and_hazards.md R252): a change of all that surrounds the data
registers, FLAGS, STATUS and the latched value changes nothing of what the command does.
-/

namespace Sys2Proof.Machine

variable {s t : State}

/-- The state s in the surroundings of c: the window's place, LASTCMD, `rst`, the pending inputs and the data last read
are those of c. -/
def State.inContextOf (s c : State) : State :=
  { s with inst := { s.inst with facBase := c.inst.facBase }, lastcmd := c.lastcmd, rst := c.rst, inputs := c.inputs,
           rdata := c.rdata }

theorem State.finishElem_inContextOf {rd : Reg} {x : Except ErrCode Nat} (c : State) (h : s.finishElem rd x = .next t) :
    (s.inContextOf c).finishElem rd x = .next (t.inContextOf c) := by
  cases x <;> cases h <;> rfl

theorem State.finishSigned_inContextOf {rd : Reg} {v : Int} (c : State) (h : s.finishSigned rd v = .next t) :
    (s.inContextOf c).finishSigned rd v = .next (t.inContextOf c) := by
  unfold State.finishSigned at h ⊢
  split at h
  · cases h; exact if_pos ‹_›
  · cases h; exact if_neg ‹_›

/-- No command reads its surroundings or changes them. -/
theorem exec_inContextOf {i : Instr} (c : State) (h : exec i s = .next t) :
    exec i (s.inContextOf c) = .next (t.inContextOf c) := by
  cases i with
  | add | sub | mulw | cmp | shl1 | shr1 | smulw | sfold | sfoldw | norm => cases h; rfl
  | sadd | ssub => exact State.finishSigned_inContextOf c h
  | reduce | fadd | fsub | fneg | fmul | finv | fdiv | fpow => exact State.finishElem_inContextOf c h

theorem engineTurn_inContextOf (c : State) (h : engineTurn s = .next t) :
    engineTurn (s.inContextOf c) = .next (t.inContextOf c) := by
  have run {v : Word} (he : s.engine = .running v) : engineTurn (s.inContextOf c) = runLatched v (s.inContextOf c) :=
    engineTurn_running he
  rcases engineTurn_next_cases h with ⟨he, rfl⟩ | ⟨v, he, ⟨r, hd, rfl⟩ | ⟨i, hd, hexec⟩⟩
  · exact engineTurn_idle he
  · rw [run he, runLatched_illegal hd]
    rfl
  · rw [run he, runLatched_ok hd]
    exact exec_inContextOf c hexec

/-- Two states that agree on the variant, E, W, FLAGS, STATUS and the engine differ in their surroundings alone. -/
theorem State.eq_inContextOf {c : State} (hvariant : s.inst.variant = c.inst.variant) (he : s.e = c.e) (hw : s.w = c.w)
    (hflags : s.flags = c.flags) (hstatus : s.status = c.status) (hengine : s.engine = c.engine) :
    c = s.inContextOf c := by
  simp only [State.inContextOf, hvariant, he, hw, hflags, hstatus, hengine]

/-- Settles O41: the second instance, after its host's accesses, is the first in other surroundings. -/
theorem resultsDependOnAcceptedState : Obligations.ResultsDependOnAcceptedState := by
  intro s s' t t' v accesses hs hs' hrun hrun' hvariant he hw hflags h h'
  have hstatus := hs'.status_of_running hrun'
  obtain ⟨data, hdata⟩ := State.foldl_afterAccess_of_busy accesses s' (congrArg Status.busy hstatus)
    (congrArg Status.err hstatus) (congrArg Status.errcode hstatus)
  have hcontext : { s' with rdata := data } = s.inContextOf { s' with rdata := data } :=
    State.eq_inContextOf hvariant he hw hflags ((hs.status_of_running hrun).trans hstatus.symm) (hrun.trans hrun'.symm)
  rw [hdata, hcontext, engineTurn_inContextOf _ h] at h'
  cases h'
  exact ⟨rfl, rfl, rfl, rfl⟩

end Sys2Proof.Machine
end

section
/-!
PROOF. The reset input (70_reset_and_hazards.md R240).
-/

namespace Sys2Proof.Machine

variable {s t : State}

/-- An access answered while a command runs leaves it running (20_memory.md R58). -/
theorem hostAccess_keeps_running {a : Access} (hb : s.status.busy = true) (h : hostAccess a s = .next t) :
    t.engine = s.engine ∧ t.status.busy = true := by
  rcases hostAccess_next h with ⟨r, rfl⟩ | rfl | rfl | ⟨hidle, -⟩ | ⟨hidle, -⟩
  · exact ⟨rfl, hb⟩
  · exact ⟨rfl, hb⟩
  · exact ⟨rfl, hb⟩
  · cases hb.symm.trans hidle
  · cases hb.symm.trans hidle

/-- Settles O44: the state that enters reset has the engine idle whatever it ran; an access in reset reaches no slot; and
of the other inputs an access leaves the command running, and driving `rst` low while it is low is no edge. -/
theorem resetInput : Obligations.ResetInput := by
  refine ⟨fun s rest hi => ?assert, fun s a rest hrst hi h1 h2 => ?access, fun s rest hrst hi => ?release,
    fun s t x rest v hs he hi hturn hassert h => ?running⟩
  case assert => exact ⟨_, step_cons hi, rfl, rfl, rfl, rfl, fun other => step_cons (s := { s with engine := other }) hi⟩
  case access =>
    refine step_refused hi h1 h2 fun t h => ?_
    cases hrst.symm.trans (rst_of_hostAccess_next (s := { s with inputs := rest }) h)
  case release =>
    have hstep : step s = .next (State.setRst { s with inputs := rest } false) := step_cons hi
    rw [State.setRst_release { s with inputs := rest } hrst] at hstep
    exact ⟨_, hstep, rfl⟩
  case running =>
    have hbusy : s.status.busy = true := congrArg Status.busy (hs.status_of_running he)
    rw [step_cons hi] at h
    cases x with
    | engineTurn => exact absurd rfl hturn
    | access a =>
      obtain ⟨hengine, hb⟩ := hostAccess_keeps_running (s := { s with inputs := rest }) hbusy h
      exact ⟨hengine.trans he, hb⟩
    | rstLevel level =>
      obtain ⟨-, -, -, -, hreset⟩ := hs
      have hrst : s.rst = false := Bool.eq_false_iff.mpr fun hr => by cases hbusy.symm.trans (hreset hr)
      cases level with
      | true => exact absurd rfl hassert
      | false =>
        cases h
        rw [State.setRst_idle { s with inputs := rest } hrst]
        exact ⟨he, hbusy⟩

end Sys2Proof.Machine
end

section
/-!
SUPPORT. Runs over a list of inputs (20_memory.md R70, 30_encoding.md R93): how they compose, and the runs over one poll,
the engine's turn, an operand store, a CMD write and the host operations made of them.
-/

namespace Sys2Proof.Machine

open Sys2Proof.Config

variable {s t u : State} {c : Inst} {xs ys : List Input}

/-- With the inputs `xs` next, before any others, the FAC takes them one by one from s to t: no step faults. What s and t
say of the inputs is of no account. -/
def RunsTo (s : State) (xs : List Input) (t : State) : Prop :=
  ∀ rest, runSteps xs.length { s with inputs := xs ++ rest } = .next { t with inputs := rest }

theorem RunsTo.nil (s : State) : RunsTo s [] s := fun _ => rfl

theorem RunsTo.of_step {x : Input} (h : ∀ rest, step { s with inputs := x :: rest } = .next { t with inputs := rest }) :
    RunsTo s [x] t := fun rest => runSteps_succ (h rest)

theorem RunsTo.append (h : RunsTo s xs t) (h' : RunsTo t ys u) : RunsTo s (xs ++ ys) u := by
  intro rest
  rw [List.length_append, List.append_assoc, runSteps_add _ _ _ _ (h (ys ++ rest))]
  exact h' rest

/-- The run from a state that has the inputs pending. -/
theorem RunsTo.run {rest : List Input} (h : RunsTo s xs t) (hi : s.inputs = xs ++ rest) :
    runSteps xs.length s = .next { t with inputs := rest } := by
  have hrun := h rest
  rwa [← hi] at hrun

/-- The engine's turn does the same whatever inputs are pending, and leaves them. -/
theorem engineTurn_withInputs (inputs : List Input) (h : engineTurn s = .next t) :
    engineTurn { s with inputs := inputs } = .next { t with inputs := inputs } := by
  obtain ⟨hlast, hinst, hrst, -, hdata⟩ := engineTurn_frame h
  have hcontext := engineTurn_inContextOf { s with inputs := inputs } h
  simpa only [State.inContextOf, ← hlast, ← hinst, ← hrst, ← hdata] using hcontext

theorem runsTo_engineTurn (h : engineTurn s = .next t) : RunsTo s [.engineTurn] t :=
  .of_step fun rest => (step_cons (s := { s with inputs := _ }) rfl).trans (engineTurn_withInputs (s := s) rest h)

/-- A read of a slot that may be read then (20_memory.md R54 to R56, R65). -/
theorem runsTo_read (hc : s.inst = c) (hrst : s.rst = false) (r : WinReg) (hp : r.present c.variant = true)
    (hb : s.status.busy = false ∨ r.readableBusy = true) :
    RunsTo s [memRead (c.facBase + r.offset)] { s with rdata := some (s.readReg r) } := by
  subst hc
  exact .of_step fun rest => step_read_present (s := { s with inputs := _ }) r rfl hrst rfl hp hb

/-- A poll reads STATUS, whether a command runs or not (20_memory.md R56, R58). -/
theorem runsTo_poll (hc : s.inst = c) (hrst : s.rst = false) : RunsTo s [hPoll c] { s with rdata := some s.statusWord } :=
  runsTo_read hc hrst .status rfl (.inr rfl)

theorem runsTo_polls (hc : s.inst = c) (hrst : s.rst = false) (k : Nat) :
    ∃ data, RunsTo s (List.replicate k (hPoll c)) { s with rdata := data } := by
  induction k with
  | zero => exact ⟨s.rdata, .nil s⟩
  | succ k ih =>
    obtain ⟨data, hpolls⟩ := ih
    rw [List.replicate_succ']
    exact ⟨_, hpolls.append (runsTo_poll (s := { s with rdata := data }) hc hrst)⟩

/-- HWAIT polls, the engine takes its turn, and the last poll reads the STATUS that it leaves (30_encoding.md R93). -/
theorem runsTo_hWait (hc : s.inst = c) (hrst : s.rst = false) (h : engineTurn s = .next t) (k : Nat) :
    RunsTo s (hWait c k) { t with rdata := some t.statusWord } := by
  obtain ⟨data, hpolls⟩ := runsTo_polls hc hrst k
  obtain ⟨-, hinst, hrst', -, -⟩ := engineTurn_frame h
  have hturn : RunsTo { s with rdata := data } [.engineTurn] { t with rdata := data } :=
    runsTo_engineTurn (engineTurn_withData h)
  have hlast := runsTo_poll (s := { t with rdata := data }) (hinst.trans hc) (hrst'.trans hrst)
  exact hpolls.append (hturn.append hlast)

/-- A CMD write that is accepted (20_memory.md R60). -/
theorem runsTo_cmdWrite (hc : s.inst = c) (hrst : s.rst = false) (hb : s.status.busy = false)
    (herr : s.status.err = false) (v : Word) : RunsTo s [memWrite (addrCmd c) v] (s.accept v).noData := by
  subst hc
  exact .of_step fun rest => (step_write_present (s := { s with inputs := _ }) .cmd rfl hrst rfl rfl).trans
    (State.writeCmd_accept hb herr)

/-- HCLR clears ERR and ERRCODE (60_exceptions.md R206). -/
theorem runsTo_hClr (hc : s.inst = c) (hrst : s.rst = false) : RunsTo s (hClr c) s.clearError.noData := by
  subst hc
  exact .of_step fun rest => (step_write_present (s := { s with inputs := _ }) .status rfl hrst rfl rfl).trans
    (State.writeStatus_eq _ 4)

end Sys2Proof.Machine
end

section
/-!
SUPPORT. Any operand stores and any reads of an idle FAC (30_encoding.md R93): writes of limbs and SIGNS, and reads of
present slots.
-/

namespace Sys2Proof.Machine

open Sys2Proof.Config

variable {s : State} {c : Inst} {x : Input} {xs : List Input}

/-- The input is a store of operands: a write of a present limb of E or W, or of SIGNS (20_memory.md R55,
10_state.md R32). -/
def IsStore (c : Inst) (x : Input) : Prop :=
  ∃ (r : WinReg) (v : Word), x = memWrite (c.facBase + r.offset) v ∧ r.present c.variant = true ∧
    (r = .signs ∨ (∃ i j, r = .e i j) ∨ ∃ j, r = .w j)

/-- The input reads a present slot. -/
def IsRead (c : Inst) (x : Input) : Prop :=
  ∃ r : WinReg, x = memRead (c.facBase + r.offset) ∧ r.present c.variant = true

/-- While BUSY = 0 a store changes E and W alone (20_memory.md R55). -/
theorem runsTo_store (hc : s.inst = c) (hrst : s.rst = false) (hb : s.status.busy = false) (hx : IsStore c x) :
    ∃ e w data, RunsTo s [x] { s with e := e, w := w, rdata := data } := by
  subst hc
  obtain ⟨r, v, rfl, hp, hr⟩ := hx
  have hwrite (rest : List Input) :=
    step_write_present (s := { s with inputs := _ }) (addr := s.inst.facBase + r.offset) (v := v) (rest := rest) r rfl
      hrst rfl hp
  rcases hr with rfl | ⟨i, j, rfl⟩ | ⟨j, rfl⟩
  · exact ⟨(s.setSigns v).e, (s.setSigns v).w, none, .of_step fun rest => (hwrite rest).trans (State.storeIdle_idle hb)⟩
  · exact ⟨(s.setLimbE i j v).e, s.w, none, .of_step fun rest => (hwrite rest).trans (State.storeIdle_idle hb)⟩
  · exact ⟨s.e, (s.setLimbW j v).w, none, .of_step fun rest => (hwrite rest).trans (State.storeIdle_idle hb)⟩

theorem runsTo_stores (hc : s.inst = c) (hrst : s.rst = false) (hb : s.status.busy = false)
    (hxs : ∀ x ∈ xs, IsStore c x) : ∃ e w data, RunsTo s xs { s with e := e, w := w, rdata := data } := by
  induction xs generalizing s with
  | nil => exact ⟨s.e, s.w, s.rdata, .nil s⟩
  | cons x xs ih =>
    obtain ⟨hx, hrest⟩ := List.forall_mem_cons.mp hxs
    obtain ⟨e, w, data, hfirst⟩ := runsTo_store hc hrst hb hx
    obtain ⟨e', w', data', hothers⟩ := ih (s := { s with e := e, w := w, rdata := data }) hc hrst hb hrest
    exact ⟨e', w', data', hfirst.append hothers⟩

/-- While BUSY = 0 reads change the data last read alone (20_memory.md R65). -/
theorem runsTo_reads (hc : s.inst = c) (hrst : s.rst = false) (hb : s.status.busy = false)
    (hxs : ∀ x ∈ xs, IsRead c x) : ∃ data, RunsTo s xs { s with rdata := data } := by
  induction xs generalizing s with
  | nil => exact ⟨s.rdata, .nil s⟩
  | cons x xs ih =>
    obtain ⟨⟨r, rfl, hp⟩, hrest⟩ := List.forall_mem_cons.mp hxs
    have hfirst := runsTo_read hc hrst r hp (.inl hb)
    obtain ⟨data, hothers⟩ := ih (s := { s with rdata := some (s.readReg r) }) hc hrst hb hrest
    exact ⟨data, hfirst.append hothers⟩

theorem isStore_of_mem_hLoad {i : Reg} {v : Nat} (h : x ∈ hLoad c i v) : IsStore c x := by
  obtain ⟨j, hj, rfl⟩ := List.mem_map.mp h
  exact ⟨.e i j, _, rfl, decide_eq_true (List.mem_range.mp hj), .inr (.inl ⟨i, j, rfl⟩)⟩

theorem isStore_of_mem_hLoadW {v : Nat} (h : x ∈ hLoadW c v) : IsStore c x := by
  obtain ⟨j, hj, rfl⟩ := List.mem_map.mp h
  exact ⟨.w j, _, rfl, decide_eq_true (List.mem_range.mp hj), .inr (.inr ⟨j, rfl⟩)⟩

theorem isStore_of_mem_hSigns {v : Word} (h : x ∈ hSigns c v) : IsStore c x := by
  cases List.mem_singleton.mp h
  exact ⟨.signs, v, rfl, rfl, .inl rfl⟩

theorem isRead_of_mem_hRead {i : Reg} (h : x ∈ hRead c i) : IsRead c x := by
  obtain ⟨j, hj, rfl⟩ := List.mem_map.mp h
  exact ⟨.e i j, rfl, decide_eq_true (List.mem_range.mp hj)⟩

/-- The host operations that store operands are stores (30_encoding.md R93). -/
theorem isStore_of_mem_flatten {stores : List (List Input)} (h : ∀ l ∈ stores,
    (∃ i v, l = hLoad c i v) ∨ (∃ v, l = hLoadW c v) ∨ ∃ v, l = hSigns c v) : ∀ x ∈ stores.flatten, IsStore c x := by
  intro x hx
  obtain ⟨l, hl, hxl⟩ := List.mem_flatten.mp hx
  rcases h l hl with ⟨i, v, rfl⟩ | ⟨v, rfl⟩ | ⟨v, rfl⟩
  · exact isStore_of_mem_hLoad hxl
  · exact isStore_of_mem_hLoadW hxl
  · exact isStore_of_mem_hSigns hxl

/-- HREAD and the reads of FLAGS and SIGNS are reads of present slots. -/
theorem isRead_of_mem_flatten {reads : List (List Input)} (h : ∀ l ∈ reads,
    (∃ i, l = hRead c i) ∨ l = [memRead (addrFlags c)] ∨ l = [memRead (addrSigns c)]) :
    ∀ x ∈ reads.flatten, IsRead c x := by
  intro x hx
  obtain ⟨l, hl, hxl⟩ := List.mem_flatten.mp hx
  rcases h l hl with ⟨i, rfl⟩ | rfl | rfl
  · exact isRead_of_mem_hRead hxl
  · cases List.mem_singleton.mp hxl
    exact ⟨.flags, rfl, rfl⟩
  · cases List.mem_singleton.mp hxl
    exact ⟨.signs, rfl, rfl⟩

/-- HCLR is no read. -/
theorem hClr_ne_of_reads (hxs : ∀ x ∈ xs, IsRead c x) : hClr c ≠ xs := by
  rintro rfl
  obtain ⟨r, hr, -⟩ := hxs _ (.head _)
  cases hr

end Sys2Proof.Machine
end

section
/-!
PROOF. The runs of the protocol: an accepted command completes (70_reset_and_hazards.md R250, R251), and the safe command
sequence gets no bus error and sees every error (R255).
-/

namespace Sys2Proof.Machine

open Sys2Proof.Config

variable {s t : State} {c : Inst}

/-- The engine's turn, given as the next input or taken when none is left (70_reset_and_hazards.md R250, R251). -/
theorem step_engineTurn {rest : List Input}
    (hi : s.inputs = .engineTurn :: rest ∨ s.inputs = [] ∧ rest = []) :
    step s = engineTurn { s with inputs := rest } := by
  rcases hi with hi | ⟨hi, rfl⟩
  · exact step_cons hi
  · rw [step_nil hi, ← hi]

/-- With BUSY alone in STATUS a poll reads 1 (10_state.md R28). -/
theorem State.statusWord_of_busy (h : s.status = { busy := true, done := false, err := false, errcode := 0 }) :
    s.statusWord = 1 := by
  rw [State.statusWord, h]
  rfl

/-- After an accepted CMD write STATUS has BUSY alone. -/
theorem State.Inv.status_accept (hs : s.Inv) (herr : s.status.err = false) (hrst : s.rst = false) (v : Word) :
    (s.accept v).noData.status = { busy := true, done := false, err := false, errcode := 0 } :=
  (hs.accept herr hrst v).status_of_running (v := v) rfl

/-- An accepted CMD write and polls after it leave the command running; with one poll or more, the last reads BUSY
alone. -/
theorem runsTo_cmdWrite_polls (hs : s.Inv) (hrst : s.rst = false) (hb : s.status.busy = false)
    (herr : s.status.err = false) (v : Word) (k : Nat) :
    ∃ data, RunsTo s (memWrite (addrCmd s.inst) v :: List.replicate k (hPoll s.inst))
      { (s.accept v).noData with rdata := data } ∧ (0 < k → data = some 1) := by
  have hcmd := runsTo_cmdWrite rfl hrst hb herr v
  cases k with
  | zero => exact ⟨none, hcmd, nofun⟩
  | succ k =>
    obtain ⟨data, hpolls⟩ := runsTo_polls (s := (s.accept v).noData) rfl hrst k
    have hlast := runsTo_poll (s := { (s.accept v).noData with rdata := data }) rfl hrst
    have hword := State.statusWord_of_busy (s := { (s.accept v).noData with rdata := data })
      (hs.status_accept herr hrst v)
    rw [List.replicate_succ']
    exact ⟨_, hcmd.append (hpolls.append hlast), fun _ => congrArg some hword⟩

/-- Settles O57: the write and the polls run, whatever follows them, and then the engine's turn ends the command. -/
theorem acceptedCommandCompletes : Obligations.AcceptedCommandCompletes := by
  intro s v polls rest hs hrst hb herr hi
  have hpending : ∃ tail, s.inputs = memWrite (addrCmd s.inst) v :: List.replicate polls (hPoll s.inst) ++ tail ∧
      (tail = .engineTurn :: rest ∨ tail = [] ∧ rest = []) := by
    rcases hi with hi | ⟨hi, hrest⟩
    · exact ⟨_, hi, .inl rfl⟩
    · exact ⟨[], by rw [hi, List.append_nil], .inr ⟨rfl, hrest⟩⟩
  obtain ⟨tail, hi, htail⟩ := hpending
  refine ⟨fun k hk => ?_, ?_⟩
  · obtain ⟨data, hrun, hdata⟩ := runsTo_cmdWrite_polls hs hrst hb herr v (k + 1)
    have hsplit : List.replicate polls (hPoll s.inst) =
        List.replicate (k + 1) (hPoll s.inst) ++ List.replicate (polls - (k + 1)) (hPoll s.inst) := by
      rw [← List.replicate_add, Nat.add_sub_cancel' hk]
    have hsteps := hrun.run (by rw [hi, hsplit, ← List.cons_append, List.append_assoc])
    rw [List.length_cons, List.length_replicate] at hsteps
    exact ⟨_, hsteps, hdata (Nat.succ_pos k)⟩
  · obtain ⟨data, hrun, -⟩ := runsTo_cmdWrite_polls hs hrst hb herr v polls
    have hsteps := hrun.run hi
    rw [List.length_cons, List.length_replicate] at hsteps
    obtain ⟨t, hturn⟩ := engineTurn_answers { (s.accept v).noData with rdata := data, inputs := rest }
    obtain ⟨hbusy, hdone, hidle⟩ := engineTurn_ends (v := v) rfl hturn
    obtain ⟨hlast, -, -, hinputs, -⟩ := engineTurn_frame hturn
    have hstep := (step_engineTurn (s := { (s.accept v).noData with rdata := data, inputs := tail }) htail).trans hturn
    refine ⟨t, ?_, hidle, hbusy, hdone, hlast, hinputs⟩
    exact (runSteps_add (polls + 1) 1 _ _ hsteps).trans (runSteps_succ hstep)

/-- HCMD and HWAIT of an idle FAC without an error: the word is accepted and has completed, and the last poll has read
STATUS as it is (70_reset_and_hazards.md R255). -/
theorem runsTo_hCmd_hWait (hc : s.inst = c) (hrst : s.rst = false) (hb : s.status.busy = false)
    (herr : s.status.err = false) (word : BitVec 32) (polls : Nat) :
    ∃ t, RunsTo s (hCmd c word ++ hWait c polls) t ∧ t.inst = c ∧ t.rst = false ∧ t.lastcmd = word.setWidth 64 ∧
      t.status.busy = false ∧ t.status.done = true ∧ t.rdata = some t.statusWord := by
  have hcmd := runsTo_cmdWrite hc hrst hb herr (word.setWidth 64)
  obtain ⟨t, hturn⟩ := engineTurn_answers (s.accept (word.setWidth 64)).noData
  obtain ⟨hbusy, hdone, -⟩ := engineTurn_ends (v := word.setWidth 64) rfl hturn
  obtain ⟨hlast, hinst, hrst', -, -⟩ := engineTurn_frame hturn
  have hwait := runsTo_hWait (s := (s.accept (word.setWidth 64)).noData) hc hrst hturn polls
  exact ⟨_, hcmd.append hwait, hinst.trans hc, hrst'.trans hrst, hlast, hbusy, hdone, rfl⟩

/-- The safe sequence up to its second HWAIT: the first HWAIT and the stores leave the FAC idle and without an error. -/
theorem runsTo_safeCommand (hs : s.Inv) (hc : s.inst = c) (hrst : s.rst = false)
    (herr : ∀ u, engineTurn s = .next u → u.status.err = false) {stores : List Input}
    (hstores : ∀ x ∈ stores, IsStore c x) (word : BitVec 32) (before polls : Nat) :
    ∃ t, RunsTo s (hWait c before ++ stores ++ hCmd c word ++ hWait c polls) t ∧ t.inst = c ∧ t.rst = false ∧
      t.lastcmd = word.setWidth 64 ∧ t.status.busy = false ∧ t.status.done = true ∧ t.rdata = some t.statusWord := by
  obtain ⟨u, hturn⟩ := engineTurn_answers s
  obtain ⟨-, hinst, hrst', -, -⟩ := engineTurn_frame hturn
  have hb := hs.busy_of_engineTurn hturn
  have hwait := runsTo_hWait hc hrst hturn before
  obtain ⟨e, w, data, hstored⟩ :=
    runsTo_stores (s := { u with rdata := some u.statusWord }) (hinst.trans hc) (hrst'.trans hrst) hb hstores
  obtain ⟨t, hcmd, ht⟩ := runsTo_hCmd_hWait (s := { u with e := e, w := w, rdata := data }) (hinst.trans hc)
    (hrst'.trans hrst) hb (herr u hturn) word polls
  have hrun := (hwait.append hstored).append hcmd
  rw [← List.append_assoc] at hrun
  exact ⟨t, hrun, ht⟩

/-- Settles O59: the sequence runs phase by phase, each phase from the state the one before it leaves. -/
theorem safeSequenceGetsNoBusError : Obligations.SafeSequenceGetsNoBusError := by
  intro s stores reads word before polls closing hs hrst herr hstores hreads hclosing hi
  obtain ⟨t, hrun, hinst, htrst, hlast, hbusy, hdone, hdata⟩ :=
    runsTo_safeCommand hs rfl hrst herr (isStore_of_mem_flatten hstores) word before polls
  have hreads' := isRead_of_mem_flatten hreads
  have hclose : ∃ u, RunsTo t closing u ∧ (closing = hClr s.inst → u = t.clearError.noData) ∧
      (closing = reads.flatten → u = { t with rdata := u.rdata }) := by
    rcases hclosing with rfl | rfl
    · exact ⟨_, runsTo_hClr hinst htrst, fun _ => rfl, fun h => absurd h (hClr_ne_of_reads hreads')⟩
    · obtain ⟨data, hread⟩ := runsTo_reads hinst htrst hbusy hreads'
      exact ⟨_, hread, fun h => absurd h.symm (hClr_ne_of_reads hreads'), fun _ => rfl⟩
  obtain ⟨u, hlastrun, hclr, hread⟩ := hclose
  have hsteps := hrun.run hi
  have hall := (hrun.append hlastrun).run (hi.trans (List.append_nil _).symm)
  have hlength := congrArg List.length hi
  rw [List.length_append] at hlength
  rw [← hi] at hall
  refine ⟨{ t with inputs := closing }, { u with inputs := [] }, ?_, rfl, hlast, hbusy, hdone,
    ⟨t.statusWord, hdata, (t.statusWord_getLsbD 0).trans hbusy, t.statusWord_getLsbD 2, t.statusWord_errcode⟩, hall,
    fun h => ?_, fun h => ?_⟩
  · rw [hlength, Nat.add_sub_cancel]
    exact hsteps
  · rw [hclr h]
    rfl
  · rw [hread h]

end Sys2Proof.Machine
end

section
/-!
SETTLES the choice that an input driving `rst` low where it is low already is no reset (notes/assumptions/13.md;
70_reset_and_hazards.md R240).
-/

namespace Sys2Proof.Machine

/-- Settles O45: the step takes the input, and `setRst_idle` says that the drive then leaves the state as it is. -/
theorem drivingRstLowTwiceChangesNothing : Obligations.DrivingRstLowTwiceChangesNothing := by
  intro s rest hrst hi
  calc step s = .next (State.setRst { s with inputs := rest } false) := step_cons hi
    _ = .next { s with inputs := rest } := congrArg _ (State.setRst_idle { s with inputs := rest } hrst)

end Sys2Proof.Machine
end
